-- ==== Sys2Proof/Word.lean ====
section
/-! DEFINITION. The value types of CE2-FEISTEL: unsigned bit vectors of the widths of rules R8 and R10.
Bits are numbered from the least significant end (R11); nothing is ever signed (R13). -/

namespace Sys2Proof

/-- A data byte (R10). -/
abbrev Byte := BitVec 8

/-- A command word or a response word (R10, R80). -/
abbrev CmdWord := BitVec 16

/-- A Block: eight bytes, the first one most significant (R22, R62). -/
abbrev Block := BitVec 64

/-- A HalfBlock (R23). -/
abbrev Half := BitVec 32

/-- One round subkey (R21). -/
abbrev Subkey := BitVec 48

/-- The SubkeySet: sixteen subkeys, indexed 0..15 (R21). -/
abbrev SubkeySet := Vector Subkey 16

end Sys2Proof
end

