-- ==== Sys2Proof/Config.lean ====
section
/-! DEFINITION. What the spec leaves to the implementation: the constant tables (R9, R34, R155) and the values of the
registers that a reset step or INIT leaves unspecified (R50). Every constant here is opaque: no proof can see its value. -/

namespace Sys2Proof

/-- A position of an N-bit value, read most significant first (R12, R140). Position `p` of the spec (1 ≤ p ≤ N) is
the element `p - 1`, so that no position outside 1..N can be written down (R155). -/
abbrev Position (n : Nat) := Fin n

/-- A well-formed configuration (R155): `ETAB` has 48 entries in 1..32, `PTAB` 32 entries in 1..32 and `SBOX` 4 × 4 × 16
entries in 0..15 (R146). Nothing else is assumed of it: not that `PTAB` is a bijection (R148), not that a row of
`SBOX` is a permutation (R146). -/
structure Tables where
  /-- `ETAB[1..48]`: the source position, in the 32-bit half, of each output position (R141). -/
  etab : Vector (Position 32) 48
  /-- `PTAB[1..32]`: the source position of each output position (R147). -/
  ptab : Vector (Position 32) 32
  /-- `SBOX[table][row][col]` (R145, R146). -/
  sbox : Vector (Vector (Vector (BitVec 4) 16) 4) 4
  deriving DecidableEq, Repr, Inhabited

namespace Config

/-- The configuration the hardware was built with (R9, R34): a parameter of the step, never state. -/
opaque tables : Tables

/-- What the `n`-th reset step or INIT leaves in `KEY` (R50: unspecified). -/
opaque freeKey : Nat → Block

/-- What the `n`-th reset step or INIT leaves in `SK[0..15]` (R50: unspecified). -/
opaque freeSubkeys : Nat → SubkeySet

/-- What the `n`-th reset step or INIT leaves in `BLK` (R50: unspecified). -/
opaque freeBlk : Nat → Block

/-- What the `n`-th reset step or INIT leaves in `L` (R50: unspecified). -/
opaque freeL : Nat → Half

/-- What the `n`-th reset step or INIT leaves in `R` (R50: unspecified). -/
opaque freeR : Nat → Half

/-- What the `n`-th reset step or INIT leaves in `DSR` (R50: unspecified). -/
opaque freeDsr : Nat → Block

/-- What the `n`-th reset step or INIT leaves in `SSR` (R50: unspecified). -/
opaque freeSsr : Nat → Block

end Config

end Sys2Proof
end

