-- ==== Sys2Proof/Syntax.lean ====
section
/-! DEFINITION. The commands of CE2-FEISTEL, one constructor per row of spec/opcode_table.json (R84). The operands of a
constructor are exactly the bits its row leaves free, so that every `Instr` is a legal command (R90): there is no
ill-formed one. -/

namespace Sys2Proof

/-- The command set (R84). RDSK and STAT have two rows each, hence two constructors each. -/
inductive Instr where
  /-- NOP (R200). -/
  | nop
  /-- DPUSH b (R102): `imm = b`. -/
  | dpush (b : Byte)
  /-- LDBLK (R103). -/
  | ldblk
  /-- LDKEY (R121). -/
  | ldkey
  /-- ENC (R174). -/
  | enc
  /-- DEC (R175). -/
  | dec
  /-- UNLD (R104). -/
  | unld
  /-- DPOP (R105). -/
  | dpop
  /-- RDSK i, j for the lanes 0..3 (R124, first row): `arg = i`, `imm = j`. -/
  | rdskLow (i : BitVec 4) (j : BitVec 2)
  /-- RDSK i, 4 + j for the lanes 4..5 (R124, second row): `arg = i`, `imm = 4 + j`. -/
  | rdskHigh (i : BitVec 4) (j : BitVec 1)
  /-- STAT s for the selectors 0 and 1 (R201, first row): `arg = s`. -/
  | statLow (sel : BitVec 1)
  /-- STAT 2 (R201, second row): `arg = 2`. -/
  | statRc
  /-- INIT (R202). -/
  | init
  deriving DecidableEq, Repr

end Sys2Proof
end

