-- ==== Sys2Proof/WellFormed.lean ====
section
/-! DEFINITION. The checks on raw data: which 16-bit words are legal commands, in the words of rule R90 (independently of
the decoder, which follows the table of R84), and which table configurations are well formed (R155). An `Instr`
needs no check: its operands range over exactly the legal values. -/

namespace Sys2Proof

/-- The operations that take neither argument nor immediate: NOP, LDBLK, LDKEY, UNLD, DPOP, INIT (R90). -/
def plainOps : List (BitVec 4) := [0x0, 0x2, 0x3, 0x5, 0x6, 0x9]

/-- The illegal words, clause by clause as R90 lists them. -/
def illegalWord (cw : CmdWord) : Bool :=
  let op := cw.extractLsb' 12 4
  let arg := cw.extractLsb' 8 4
  let imm := cw.extractLsb' 0 8
  decide (0xA ≤ op.toNat)
    || (plainOps.contains op && (arg != 0 || imm != 0))
    || (op == 0x1 && arg != 0)
    || (op == 0x4 && (decide (2 ≤ arg.toNat) || imm != 0))
    || (op == 0x7 && decide (6 ≤ imm.toNat))
    || (op == 0x8 && (decide (3 ≤ arg.toNat) || imm != 0))

/-- A legal command word (R90): one that is not illegal. -/
def legalWord (cw : CmdWord) : Bool := !illegalWord cw

/-- A table configuration as the spec prints one: plain numbers, positions from 1 (R9). -/
structure RawTables where
  etab : List Nat
  ptab : List Nat
  sbox : List (List (List Nat))
  deriving DecidableEq, Repr

/-- A table entry that names a position 1..32 of a half (R155). -/
def isPosition (p : Nat) : Bool := decide (1 ≤ p) && decide (p ≤ 32)

/-- `ETAB` is well formed: 48 entries in 1..32 (R155). -/
def RawTables.etabOk (t : RawTables) : Bool := t.etab.length == 48 && t.etab.all isPosition

/-- `PTAB` is well formed: 32 entries in 1..32 (R155). -/
def RawTables.ptabOk (t : RawTables) : Bool := t.ptab.length == 32 && t.ptab.all isPosition

/-- `SBOX` has the shape 4 × 4 × 16 (R146). -/
def RawTables.sboxShapeOk (t : RawTables) : Bool :=
  t.sbox.length == 4 && t.sbox.all fun rows => rows.length == 4 && rows.all fun row => row.length == 16

/-- Every entry of `SBOX` is in 0..15 (R155). -/
def RawTables.sboxEntriesOk (t : RawTables) : Bool :=
  t.sbox.all fun rows => rows.all fun row => row.all fun n => decide (n < 16)

/-- A well-formed configuration (R155). -/
def RawTables.wf (t : RawTables) : Bool := t.etabOk && t.ptabOk && t.sboxShapeOk && t.sboxEntriesOk

end Sys2Proof
end

