-- ==== Sys2Proof/Decode.lean ====
section
/-! DEFINITION. Command words: their three fields (R80), the encoder, the opcode table as rows of match and mask (R84), the
decoder that reads it, and `decodeTableWord`, by which the host asks for a table row's instruction. Decoding
depends on no state (R91). -/

namespace Sys2Proof

/-- `cw.op` (R14, R80). -/
def cwOp (cw : CmdWord) : BitVec 4 := cw.extractLsb' 12 4

/-- `cw.arg` (R14, R80). -/
def cwArg (cw : CmdWord) : BitVec 4 := cw.extractLsb' 8 4

/-- `cw.imm` (R14, R80). -/
def cwImm (cw : CmdWord) : Byte := cw.extractLsb' 0 8

/-- The word with the given fields: `op ‖ arg ‖ imm` (R80). -/
def assembleWord (op arg : BitVec 4) (imm : Byte) : CmdWord := op ++ arg ++ imm

/-- The word of a command, from the columns op, arg and imm of R84. -/
def encode : Instr → CmdWord
  | .nop => assembleWord 0x0 0 0
  | .dpush b => assembleWord 0x1 0 b
  | .ldblk => assembleWord 0x2 0 0
  | .ldkey => assembleWord 0x3 0 0
  | .enc => assembleWord 0x4 0 0
  | .dec => assembleWord 0x4 1 0
  | .unld => assembleWord 0x5 0 0
  | .dpop => assembleWord 0x6 0 0
  | .rdskLow i j => assembleWord 0x7 i (j.setWidth 8)
  | .rdskHigh i j => assembleWord 0x7 i (4 + j.setWidth 8)
  | .statLow sel => assembleWord 0x8 (sel.setWidth 4) 0
  | .statRc => assembleWord 0x8 2 0
  | .init => assembleWord 0x9 0 0

/-- The mnemonic of a command, as the table spells it (R84). -/
def mnemonicOf : Instr → String
  | .nop => "NOP"
  | .dpush _ => "DPUSH"
  | .ldblk => "LDBLK"
  | .ldkey => "LDKEY"
  | .enc => "ENC"
  | .dec => "DEC"
  | .unld => "UNLD"
  | .dpop => "DPOP"
  | .rdskLow _ _ => "RDSK"
  | .rdskHigh _ _ => "RDSK"
  | .statLow _ => "STAT"
  | .statRc => "STAT"
  | .init => "INIT"

/-- A row of the opcode table: the words with `cw & mask = pattern`, and the command such a word is. -/
structure OpcodeRow where
  mnemonic : String
  pattern : CmdWord
  mask : CmdWord
  build : CmdWord → Instr

/-- "match/mask" means `cw & mask = match` (R84). -/
def OpcodeRow.selects (row : OpcodeRow) (cw : CmdWord) : Bool := cw &&& row.mask == row.pattern

/-- The opcode table, row by row in the order of R84. -/
def opcodeRows : List OpcodeRow :=
  [⟨"NOP", 0x0000, 0xFFFF, fun _ => .nop⟩,
   ⟨"DPUSH", 0x1000, 0xFF00, fun cw => .dpush (cwImm cw)⟩,
   ⟨"LDBLK", 0x2000, 0xFFFF, fun _ => .ldblk⟩,
   ⟨"LDKEY", 0x3000, 0xFFFF, fun _ => .ldkey⟩,
   ⟨"ENC", 0x4000, 0xFFFF, fun _ => .enc⟩,
   ⟨"DEC", 0x4100, 0xFFFF, fun _ => .dec⟩,
   ⟨"UNLD", 0x5000, 0xFFFF, fun _ => .unld⟩,
   ⟨"DPOP", 0x6000, 0xFFFF, fun _ => .dpop⟩,
   ⟨"RDSK", 0x7000, 0xF0FC, fun cw => .rdskLow (cwArg cw) ((cwImm cw).setWidth 2)⟩,
   ⟨"RDSK", 0x7004, 0xF0FE, fun cw => .rdskHigh (cwArg cw) ((cwImm cw).setWidth 1)⟩,
   ⟨"STAT", 0x8000, 0xFEFF, fun cw => .statLow ((cwArg cw).setWidth 1)⟩,
   ⟨"STAT", 0x8200, 0xFFFF, fun _ => .statRc⟩,
   ⟨"INIT", 0x9000, 0xFFFF, fun _ => .init⟩]

/-- Why the decoder gives no command. -/
inductive DecodeError where
  /-- The word matches no row: ILLEGAL (R84, R90). -/
  | illegalCommand
  deriving DecidableEq, Repr

/-- `decode(cw)` (R84): the first row that selects the word; a word that matches no row is ILLEGAL. -/
def decode (cw : CmdWord) : Except DecodeError Instr :=
  match opcodeRows.find? (fun row => row.selects cw) with
  | some row => .ok (row.build cw)
  | none => .error .illegalCommand

/-- The command of the table word `w` of `nbits` bits. A word is presented whole, in parallel (R64), so there is no
byte order; every bit above `nbits` is 0, and so is every bit above 15. -/
def decodeTableWord (nbits w : Nat) : Option Instr :=
  (decode (BitVec.ofNat 16 (w % 2 ^ nbits))).toOption

end Sys2Proof
end

