-- ==== Sys2Proof/Machine/State.lean ====
section
/-! DEFINITION. The state of CE2-FEISTEL as plain data: every register, counter and flag of 10_state.md, the response port
and what the host is about to do at the input pins; the reasons a step can stop; and the state after reset (R50). -/

namespace Sys2Proof.Machine

/-- `DIR` (R26): 0 is encryption (round keys ascending), 1 decryption (descending). -/
inductive Direction where
  | enc
  | dec
  deriving DecidableEq, Repr

/-- The hardware's faults (R250). Each is a next state with `ERR` and `ECMD` written, never a stop of the model. -/
inductive FaultCode where
  /-- Code 1: LDBLK or LDKEY with `DCNT ≠ 8` (R251). -/
  | invalidBlockLength
  /-- Code 2: a word outside the 363 legal ones (R90). -/
  | illegalCommand
  /-- Code 3: ENC, DEC or RDSK with `KV = 0` (R252). -/
  | keyNotLoaded
  /-- Code 4: ENC, DEC or UNLD with `BV = 0` (R252). -/
  | blockNotLoaded
  /-- Code 5: DPOP with `SCNT = 0` (R252). -/
  | serializerEmpty
  deriving DecidableEq, Repr

/-- The operating modes (R280), functions of `BUSY` and `ERR` and not separate state. -/
inductive Mode where
  | ready
  | busy
  | fault
  deriving DecidableEq, Repr

/-- What the host does at the input pins (R40), in order. DESIGN CHOICE (log entry 1): safe. -/
inductive PortEvent where
  /-- Present this command word and keep it presented until it is accepted (R40, R242 a). -/
  | cmd (cw : CmdWord)
  /-- Leave `cmd_valid` and `rst` at 0 for one clock edge. -/
  | idle
  /-- Hold `rst` at 1 for one clock edge (R290). -/
  | rst
  deriving DecidableEq, Repr

/-- The state of one core and of its port. -/
structure State where
  /-- `KEY` (R20). -/
  key : Block
  /-- `SK[0..15]` (R21). -/
  sk : SubkeySet
  /-- `BLK` (R22). -/
  blk : Block
  /-- `L` (R23). -/
  l : Half
  /-- `R` (R23). -/
  r : Half
  /-- `DSR` (R24). -/
  dsr : Block
  /-- `DCNT`, 0..9 (R24). -/
  dcnt : BitVec 4
  /-- `SSR` (R25). -/
  ssr : Block
  /-- `SCNT`, 0..8 (R25). -/
  scnt : BitVec 4
  /-- `DIR` (R26). -/
  dir : Direction
  /-- `RC`, 0..16 (R27). -/
  rc : BitVec 5
  /-- `KV` (R28). -/
  kv : Bool
  /-- `BV` (R29). -/
  bv : Bool
  /-- `BUSY` (R30). -/
  busy : Bool
  /-- `ERR`, 0..5 (R31). -/
  err : BitVec 4
  /-- `ECMD` (R32). -/
  ecmd : CmdWord
  /-- The response port at the last clock edge: `none` when `rsp_valid = 0` (R40, R41). The model's own field
  (log entry 3). -/
  rsp : Option CmdWord
  /-- What the host does next at the input pins (R40). The model's own field (log entry 1). -/
  input : List PortEvent
  /-- Which free values the next reset step or INIT leaves in the unspecified registers. The model's own field
  (log entry 5). -/
  freeCtr : Nat
  deriving DecidableEq, Repr

/-- Why the model stops. The hardware's own faults are not here: they are next states (R260). -/
inductive Fault where
  /-- Raised by `engineStep` alone, in a state with `BUSY = 1` and `RC > 16`, where the spec enables neither ROUND nor
  FINAL (R176, R177). No reachable state is one (R45, U8). Safe: log entry 9. -/
  | engineStuck
  deriving DecidableEq, Repr

/-- Why an instruction has no meaning. -/
inductive Refusal where
  /-- Raised by an arm of `exec` whose instruction has no meaning yet; no arm is left so. Safe. -/
  | notModelled (mnemonic : String)
  deriving DecidableEq, Repr

/-- The outcome of a step of this machine. -/
abbrev StepOut := Host.Outcome State Fault Refusal

/-- The state after reset (R50, R290): every counter and flag 0, READY mode, no response. The data registers `KEY`,
`SK`, `BLK`, `L`, `R`, `DSR`, `SSR` are unspecified there. DESIGN CHOICE: they are 0 here (log entry 4), unsafe. -/
def State.reset : State where
  key := 0
  sk := #v[0, 0, 0, 0, 0, 0, 0, 0, 0, 0, 0, 0, 0, 0, 0, 0]
  blk := 0
  l := 0
  r := 0
  dsr := 0
  dcnt := 0
  ssr := 0
  scnt := 0
  dir := .enc
  rc := 0
  kv := false
  bv := false
  busy := false
  err := 0
  ecmd := 0
  rsp := none
  input := []
  freeCtr := 0

end Sys2Proof.Machine
end

