-- ==== Sys2Proof/Machine/Flags.lean ====
section
/-! DEFINITION. Flags, codes and counters: the fault codes (R250), the operating mode (R280), the STATUS word (R33) and the
counter updates (R24, R102, R105). -/

namespace Sys2Proof.Machine

/-- The 4-bit code of a fault (R250). -/
def FaultCode.code : FaultCode → BitVec 4
  | .invalidBlockLength => 1
  | .illegalCommand => 2
  | .keyNotLoaded => 3
  | .blockNotLoaded => 4
  | .serializerEmpty => 5

/-- The bit held in `DIR` (R26). -/
def Direction.bit : Direction → BitVec 1
  | .enc => 0
  | .dec => 1

/-- The operating mode (R280). `BUSY` is looked at first, as in the priority of R263. -/
def State.mode (s : State) : Mode :=
  if s.busy then .busy else if s.err = 0 then .ready else .fault

/-- `STATUS = ERR ‖ KV ‖ BV ‖ BUSY ‖ DIR ‖ SCNT ‖ DCNT` (R33). -/
def State.status (s : State) : CmdWord :=
  s.err ++ BitVec.ofBool s.kv ++ BitVec.ofBool s.bv ++ BitVec.ofBool s.busy ++ s.dir.bit ++ s.scnt ++ s.dcnt

/-- `min(DCNT + 1, 9)` (R24, R102). -/
def dcntAfterPush (c : BitVec 4) : BitVec 4 := BitVec.ofNat 4 (min (c.toNat + 1) 9)

end Sys2Proof.Machine
end

