-- ==== Sys2Proof/Machine/Operands.lean ====
section
/-! DEFINITION. Operand forms: positions (R12, R140), the halves of a block (R172), the byte lanes of a block and of a subkey
(R62, R64), the operands of RDSK (R83), and the subkey a round uses (R170, R176). -/

namespace Sys2Proof.Machine

/-- `pos_N(v, p) = v[N-p]` (R12), for the position `p = q + 1`. -/
def posBit {n : Nat} (v : BitVec n) (q : Position n) : Bool := v.getLsbD (n - (q.val + 1))

/-- The N-bit value whose bit at position `q + 1` is `f q`, filled from position 1 upward, that is from the most
significant bit downward (R12). -/
def ofPositions {n : Nat} (f : Position n → Bool) : BitVec n := BitVec.ofFnBE f

/-- `block[63:32]`, the first four bytes (R172). -/
def highHalf (b : Block) : Half := b.extractLsb' 32 32

/-- `block[31:0]`, the last four bytes (R172). -/
def lowHalf (b : Block) : Half := b.extractLsb' 0 32

/-- `hi ‖ lo` (R172). -/
def joinHalves (hi lo : Half) : Block := hi ++ lo

/-- Byte `k` of a block, byte 0 most significant: `v[63-8k : 56-8k]` (R62). -/
def blockByte (v : Block) (k : Nat) : Byte := v.extractLsb' (56 - 8 * k) 8

/-- Byte lane `j` of a subkey, lane 0 most significant: `v[47-8j : 40-8j]` (R64, R124). -/
def subkeyByte (v : Subkey) (j : Nat) : Byte := v.extractLsb' (40 - 8 * j) 8

/-- `SK[i]` for the index field of RDSK: every value is legal (R83). -/
def subkeyAt (sk : SubkeySet) (i : BitVec 4) : Subkey := sk.get i.toFin

/-- The subkey index of the round that starts with round counter `n`, 0..15: the direction mux (R27, R170, R176). -/
def roundIndex (d : Direction) (n : Nat) : Fin 16 :=
  match d with
  | .enc => Fin.ofNat 16 n
  | .dec => Fin.ofNat 16 (15 - n)

/-- Group `g` of the 48 bits: six bits, group 0 most significant (R145). -/
def bitGroup (m : BitVec 48) (g : Nat) : BitVec 6 := m.extractLsb' (42 - 6 * g) 6

/-- The row number of a group: first bit high, last bit low (R145). -/
def groupRow (grp : BitVec 6) : BitVec 2 := grp.extractLsb' 5 1 ++ grp.extractLsb' 0 1

/-- The column number of a group: the inner four bits (R145). -/
def groupCol (grp : BitVec 6) : BitVec 4 := grp.extractLsb' 1 4

end Sys2Proof.Machine
end

