-- ==== Sys2Proof/Machine/Ops.lean ====
section
/-! DEFINITION. The shared operations: the mode filter every command passes (R82, R263), fault entry (R260), the response
(R41), the return from a fault, which is also the reset (R50, R202, R264, R290), and taking an input event (R40). -/

namespace Sys2Proof.Machine

/-- A command that is executed in READY mode only: in FAULT mode its word is dropped (R262), in BUSY mode it is not
accepted (R81); either way nothing of it happens. -/
def State.inReady (s : State) (run : State → StepOut) : StepOut :=
  match s.mode with
  | .ready => run s
  | .fault => .next s
  | .busy => .next s

/-- A command that is executed in READY and in FAULT mode: NOP, STAT, INIT (R82, R262). In BUSY mode it is not accepted
(R81) and nothing of it happens. -/
def State.inReadyOrFault (s : State) (run : State → StepOut) : StepOut :=
  match s.mode with
  | .ready => run s
  | .fault => run s
  | .busy => .next s

/-- Fault entry (R260): `ERR <- code`, `ECMD <- cw`, and nothing else. -/
def State.raise (s : State) (c : FaultCode) (cw : CmdWord) : State :=
  { s with err := c.code, ecmd := cw }

/-- `raise Fault(code)` in the rule of the command `i` (R14, R260). -/
def raiseFault (c : FaultCode) (i : Instr) (s : State) : StepOut := .next (s.raise c (encode i))

/-- `respond(v)` (R14, R41). -/
def State.respond (s : State) (v : CmdWord) : State := { s with rsp := some v }

/-- The writes of a reset step and of INIT (R50, R202, R290): counters, flags and fault registers to 0, the data registers
unspecified, here free values. It is also the only return from a fault (R264). -/
def State.resetRegs (s : State) : State :=
  { s with
    key := Config.freeKey s.freeCtr
    sk := Config.freeSubkeys s.freeCtr
    blk := Config.freeBlk s.freeCtr
    l := Config.freeL s.freeCtr
    r := Config.freeR s.freeCtr
    dsr := Config.freeDsr s.freeCtr
    ssr := Config.freeSsr s.freeCtr
    freeCtr := s.freeCtr + 1
    dcnt := 0
    scnt := 0
    rc := 0
    dir := .enc
    kv := false
    bv := false
    busy := false
    err := 0
    ecmd := 0 }

/-- A clock edge begins: the response port shows nothing (`rsp_valid = 0` unless this step responds, R41), and `rest` is
what the host does after this edge. -/
def State.beginEdge (s : State) (rest : List PortEvent) : State :=
  { s with rsp := none, input := rest }

/-- An illegal word, accepted (R82, R90): IllegalCommand in READY mode, dropped in FAULT mode (R262). -/
def illegalWordStep (cw : CmdWord) (s : State) : StepOut :=
  s.inReady fun s => .next (s.raise .illegalCommand cw)

end Sys2Proof.Machine
end

