-- ==== Sys2Proof/Machine/System.lean ====
section
/-! DEFINITION. The system commands (44_system.md): NOP, STAT and INIT, the three that are executed in FAULT mode as well. -/

namespace Sys2Proof.Machine

/-- NOP (R200). -/
def execNop (s : State) : StepOut := s.inReadyOrFault fun s => .next s

/-- STAT 0 and STAT 1 (R201): STATUS and `ECMD`. -/
def execStatLow (sel : BitVec 1) (s : State) : StepOut :=
  s.inReadyOrFault fun s => .next (s.respond (if sel = 0 then s.status else s.ecmd))

/-- STAT 2 (R201): `zext_16(RC)`. -/
def execStatRc (s : State) : StepOut :=
  s.inReadyOrFault fun s => .next (s.respond (s.rc.setWidth 16))

/-- INIT (R202). -/
def execInit (s : State) : StepOut := s.inReadyOrFault fun s => .next s.resetRegs

end Sys2Proof.Machine
end

