-- ==== Sys2Proof/Machine/Codec.lean ====
section
/-! DEFINITION. The Bit-Block Codec (40_codec.md): `bytesToBlock` and `blockToBytes`, and the commands DPUSH, LDBLK, UNLD and
DPOP that realise them one byte at a time. -/

namespace Sys2Proof.Machine

/-- `bytesToBlock(b0, ..., b7) = b0 ‖ b1 ‖ ... ‖ b7` (R100). -/
def bytesToBlock (b0 b1 b2 b3 b4 b5 b6 b7 : Byte) : Block :=
  b0 ++ b1 ++ b2 ++ b3 ++ b4 ++ b5 ++ b6 ++ b7

/-- `blockToBytes(v)`: eight bytes, most significant first (R101). -/
def blockToBytes (v : Block) : List Byte :=
  [blockByte v 0, blockByte v 1, blockByte v 2, blockByte v 3,
   blockByte v 4, blockByte v 5, blockByte v 6, blockByte v 7]

/-- DPUSH b (R102). -/
def execDpush (b : Byte) (s : State) : StepOut :=
  s.inReady fun s => .next { s with dsr := (s.dsr <<< 8) ||| b.setWidth 64, dcnt := dcntAfterPush s.dcnt }

/-- LDBLK (R103). -/
def execLdblk (s : State) : StepOut :=
  s.inReady fun s =>
    if s.dcnt ≠ 8 then raiseFault .invalidBlockLength .ldblk s
    else .next { s with blk := s.dsr, bv := true, dcnt := 0 }

/-- UNLD (R104). -/
def execUnld (s : State) : StepOut :=
  s.inReady fun s =>
    if s.bv = false then raiseFault .blockNotLoaded .unld s
    else .next { s with ssr := s.blk, scnt := 8 }

/-- DPOP (R105). -/
def execDpop (s : State) : StepOut :=
  s.inReady fun s =>
    if s.scnt = 0 then raiseFault .serializerEmpty .dpop s
    else .next ({ s with ssr := s.ssr <<< 8, scnt := s.scnt - 1 }.respond ((blockByte s.ssr 0).setWidth 16))

end Sys2Proof.Machine
end

