-- ==== Sys2Proof/Machine/KeySchedule.lean ====
section
/-! DEFINITION. The Key Scheduler (41_key_schedule.md): `keyInt`, `deriveSubkeys`, and the commands LDKEY and RDSK. -/

namespace Sys2Proof.Machine

/-- `keyInt(k0..k7) = bytesToBlock(k0..k7)`, big-endian (R120). -/
def keyInt (k0 k1 k2 k3 k4 k5 k6 k7 : Byte) : Block := bytesToBlock k0 k1 k2 k3 k4 k5 k6 k7

/-- `subkey[i] = (key >> i)[47:0]` (R122). -/
def subkeyOf (key : Block) (i : Nat) : Subkey := (key >>> i).extractLsb' 0 48

/-- `deriveSubkeys(key)`: sixteen subkeys (R122). -/
def deriveSubkeys (key : Block) : SubkeySet := Vector.ofFn fun i => subkeyOf key i.val

/-- LDKEY (R121). -/
def execLdkey (s : State) : StepOut :=
  s.inReady fun s =>
    if s.dcnt ≠ 8 then raiseFault .invalidBlockLength .ldkey s
    else .next { s with key := s.dsr, sk := deriveSubkeys s.dsr, kv := true, dcnt := 0 }

/-- The common part of both rows of RDSK (R124): byte lane `j` of `SK[i]`, for the command `cmd`. -/
def readSubkeyByte (cmd : Instr) (i : BitVec 4) (j : Nat) (s : State) : StepOut :=
  s.inReady fun s =>
    if s.kv = false then raiseFault .keyNotLoaded cmd s
    else .next (s.respond ((subkeyByte (subkeyAt s.sk i) j).setWidth 16))

/-- RDSK i, j with the lane in 0..3 (R124). -/
def execRdskLow (i : BitVec 4) (j : BitVec 2) (s : State) : StepOut :=
  readSubkeyByte (.rdskLow i j) i j.toNat s

/-- RDSK i, 4 + j with the lane in 4..5 (R124). -/
def execRdskHigh (i : BitVec 4) (j : BitVec 1) (s : State) : StepOut :=
  readSubkeyByte (.rdskHigh i j) i (4 + j.toNat) s

end Sys2Proof.Machine
end

