-- ==== Sys2Proof/Machine/RoundFunction.lean ====
section
/-! DEFINITION. The Round Function (42_round_function.md): `expand`, `mix`, `substitute`, `permute` and `F`, pure functions of
their arguments and of the tables. -/

namespace Sys2Proof.Machine

/-- `expand(half)`: `pos_48(e, p) = pos_32(half, ETAB[p])` (R141). -/
def expand (t : Tables) (half : Half) : BitVec 48 := ofPositions fun p => posBit half (t.etab.get p)

/-- `mix(expanded, subkey) = expanded xor subkey` (R144). -/
def mix (expanded : BitVec 48) (subkey : Subkey) : BitVec 48 := expanded ^^^ subkey

/-- `SBOX[table][row][col]` (R145, R146). -/
def sboxEntry (t : Tables) (table : Fin 4) (row : BitVec 2) (col : BitVec 4) : BitVec 4 :=
  ((t.sbox.get table).get row.toFin).get col.toFin

/-- The output nibble of group `g`: table `g mod 4` (R145). -/
def substituteGroup (t : Tables) (mixed : BitVec 48) (g : Nat) : BitVec 4 :=
  sboxEntry t (Fin.ofNat 4 g) (groupRow (bitGroup mixed g)) (groupCol (bitGroup mixed g))

/-- `substitute(mixed)`: the eight nibbles in order, nibble 0 most significant (R145). -/
def substitute (t : Tables) (mixed : BitVec 48) : Half :=
  substituteGroup t mixed 0 ++ substituteGroup t mixed 1 ++ substituteGroup t mixed 2 ++ substituteGroup t mixed 3
    ++ substituteGroup t mixed 4 ++ substituteGroup t mixed 5 ++ substituteGroup t mixed 6 ++ substituteGroup t mixed 7

/-- `permute(substituted)`: `pos_32(q, p) = pos_32(s, PTAB[p])` (R147). -/
def permute (t : Tables) (substituted : Half) : Half :=
  ofPositions fun p => posBit substituted (t.ptab.get p)

/-- `F(half, subkey) = permute(substitute(mix(expand(half), subkey)))` (R149). -/
def roundFunction (t : Tables) (half : Half) (subkey : Subkey) : Half :=
  permute t (substitute t (mix (expand t half) subkey))

end Sys2Proof.Machine
end

