-- ==== Sys2Proof/Machine/Transform.lean ====
section
/-! DEFINITION. The Block Transform (43_block_transform.md): the pure function `blockTransform` with its two identity stages,
the commands ENC and DEC that start it, and the engine's micro-operations ROUND and FINAL. -/

namespace Sys2Proof.Machine

/-- `IP(x) = x`: the initial permutation stage, a no-op that stays visible (R171). -/
def initialPermutation (x : Block) : Block := x

/-- `FP(x) = x`: the final permutation stage, a no-op that stays visible (R171). -/
def finalPermutation (x : Block) : Block := x

/-- One Feistel round on `(left, right)`: `newRight = left xor F(right, subkey)`, `left = right` (R170, R176). -/
def feistelRound (t : Tables) (subkey : Subkey) (lr : Half × Half) : Half × Half :=
  (lr.2, lr.1 ^^^ roundFunction t lr.2 subkey)

/-- The first `n` rounds, in the order of the direction (R170). -/
def feistelRounds (t : Tables) (sk : SubkeySet) (d : Direction) : Nat → Half × Half → Half × Half
  | 0, lr => lr
  | n + 1, lr => feistelRound t (sk.get (roundIndex d n)) (feistelRounds t sk d n lr)

/-- `(left, right)` at entry: the halves of `IP(block)` (R170, R172). -/
def entryHalves (block : Block) : Half × Half :=
  (highHalf (initialPermutation block), lowHalf (initialPermutation block))

/-- The block of the final halves: `FP(right ‖ left)` (R170, R172). -/
def exitBlock (lr : Half × Half) : Block := finalPermutation (joinHalves lr.2 lr.1)

/-- `blockTransform(block, subkeys, dir)` (R170). -/
def blockTransform (t : Tables) (block : Block) (sk : SubkeySet) (d : Direction) : Block :=
  exitBlock (feistelRounds t sk d 16 (entryHalves block))

/-- The writes of ENC and DEC once their preconditions hold (R174, R175). -/
def State.startTransform (s : State) (d : Direction) : State :=
  { s with dir := d, l := (entryHalves s.blk).1, r := (entryHalves s.blk).2, rc := 0, busy := true }

/-- The common part of ENC and DEC (R174, R175): the key is checked before the block (R263). -/
def startTransform (cmd : Instr) (d : Direction) (s : State) : StepOut :=
  s.inReady fun s =>
    if s.kv = false then raiseFault .keyNotLoaded cmd s
    else if s.bv = false then raiseFault .blockNotLoaded cmd s
    else .next (s.startTransform d)

/-- ENC (R174). -/
def execEnc (s : State) : StepOut := startTransform .enc .enc s

/-- DEC (R175). -/
def execDec (s : State) : StepOut := startTransform .dec .dec s

/-- ROUND, the engine's Feistel round (R176). -/
def engineRound (t : Tables) (s : State) : State :=
  { s with
    l := (feistelRound t (s.sk.get (roundIndex s.dir s.rc.toNat)) (s.l, s.r)).1
    r := (feistelRound t (s.sk.get (roundIndex s.dir s.rc.toNat)) (s.l, s.r)).2
    rc := s.rc + 1 }

/-- FINAL, the engine's last step (R177). -/
def engineFinal (s : State) : State := { s with blk := exitBlock (s.l, s.r), busy := false }

/-- The one engine step enabled while `BUSY = 1` (R178): ROUND if `RC < 16`, FINAL if `RC = 16`. No step is enabled
when `RC > 16`, which no reachable state has (log entry 9). -/
def engineStep (t : Tables) (s : State) : StepOut :=
  if s.rc.toNat < 16 then .next (engineRound t s)
  else if s.rc.toNat = 16 then .next (engineFinal s)
  else .fault .engineStuck

/-- The big step of a transform (R178): what ENC or DEC and the 17 engine steps do together. -/
def State.wholeTransform (t : Tables) (d : Direction) (s : State) : State :=
  { s with
    dir := d
    l := (feistelRounds t s.sk d 16 (entryHalves s.blk)).1
    r := (feistelRounds t s.sk d 16 (entryHalves s.blk)).2
    rc := 16
    blk := blockTransform t s.blk s.sk d }

end Sys2Proof.Machine
end

