-- ==== Sys2Proof/Machine/Dispatch.lean ====
section
/-! DEFINITION. What each command does: one arm per constructor of `Instr`, one call of its meaning. -/

namespace Sys2Proof.Machine

def exec (i : Instr) (s : State) : Host.Outcome State Fault Refusal :=
  match i with
  | .nop => Sys2Proof.Machine.execNop s
  | .dpush b => Sys2Proof.Machine.execDpush b s
  | .ldblk => Sys2Proof.Machine.execLdblk s
  | .ldkey => Sys2Proof.Machine.execLdkey s
  | .enc => Sys2Proof.Machine.execEnc s
  | .dec => Sys2Proof.Machine.execDec s
  | .unld => Sys2Proof.Machine.execUnld s
  | .dpop => Sys2Proof.Machine.execDpop s
  | .rdskLow k j => Sys2Proof.Machine.execRdskLow k j s
  | .rdskHigh k j => Sys2Proof.Machine.execRdskHigh k j s
  | .statLow sel => Sys2Proof.Machine.execStatLow sel s
  | .statRc => Sys2Proof.Machine.execStatRc s
  | .init => Sys2Proof.Machine.execInit s

end Sys2Proof.Machine
end

