-- ==== Sys2Proof/Machine/Edge.lean ====
section
/-! DEFINITION. One rising clock edge (R15, R40): a reset step, an engine step, a command step, or nothing. Written over an
arbitrary configuration; Machine/Step.lean applies it to the one the hardware was built with. -/

namespace Sys2Proof.Machine

/-- An accepted command word (R82): decoded, then executed, or an illegal word. -/
def acceptWord (cw : CmdWord) (s : State) : StepOut :=
  match decode cw with
  | .ok i => exec i s
  | .error _ => illegalWordStep cw s

/-- The reset step (R290): whatever the mode and whatever is on the command port. -/
def resetStep (s : State) : StepOut := .next s.resetRegs

/-- One clock edge. With `rst = 1` it is a reset step (R290). Otherwise, while `BUSY = 1` the engine takes its step and a
presented word is held, not consumed (R81, R178). Otherwise a presented word is accepted (R40), and with nothing
presented no step is enabled: nothing changes (log entry 2). -/
def clockEdge (t : Tables) (s : State) : StepOut :=
  match s.input with
  | .rst :: rest => resetStep (s.beginEdge rest)
  | .idle :: rest => if s.busy then engineStep t (s.beginEdge rest) else .next (s.beginEdge rest)
  | .cmd cw :: rest => if s.busy then engineStep t (s.beginEdge (.cmd cw :: rest)) else acceptWord cw (s.beginEdge rest)
  | [] => if s.busy then engineStep t (s.beginEdge []) else .next (s.beginEdge [])

/-- The port with the table word `w` of `nbits` bits presented next, and the core not busy, so that the next edge accepts
it (log entry 7). -/
def State.presentWord (s : State) (nbits w : Nat) : State :=
  { s with input := .cmd (BitVec.ofNat 16 (w % 2 ^ nbits)) :: s.input, busy := false }

end Sys2Proof.Machine
end

