-- ==== Sys2Proof/Machine/Step.lean ====
section
/-! DEFINITION. The step of the machine: one clock edge under the configuration the hardware was built with (R9, R34). -/

namespace Sys2Proof.Machine

/-- One step: a clock edge of the core (R15). -/
def step (s : State) : Host.Outcome State Fault Refusal := clockEdge Config.tables s

/-- The state in which `step` takes the table word `w` next: CE2-FEISTEL fetches nothing, so the word is presented at the
command port (R27, R40; log entry 7). -/
def State.withFetchWord (s : State) (nbits w : Nat) : State := s.presentWord nbits w

end Sys2Proof.Machine
end

