-- ==== Sys2Proof/Machine/Ports.lean ====
section
/-! DEFINITION. The logical ports (R40 to R42), read off the state: what the host drives at the next clock edge and what the
core shows it. `rsp` means something only when `rsp_valid = 1` (U10), so it is an option. -/

namespace Sys2Proof.Machine

/-- `rst` at the next clock edge (R40). -/
def State.rstPin (s : State) : Bool := s.input.head? == some .rst

/-- `cmd_valid` and `cmd` at the next clock edge: the word presented, if one is (R40). -/
def State.cmdPin (s : State) : Option CmdWord :=
  match s.input with
  | .cmd cw :: _ => some cw
  | _ => none

/-- `cmd_ready = 1` exactly when `BUSY = 0` and `rst = 0` (R40). -/
def State.cmdReady (s : State) : Bool := !s.busy && !s.rstPin

/-- `rsp_valid`: the step just taken had a response (R40, R41). -/
def State.rspValid (s : State) : Bool := s.rsp.isSome

/-- `busy` equals `BUSY` (R40, R42). -/
def State.busyPin (s : State) : Bool := s.busy

/-- `fault` is 1 exactly when `ERR ≠ 0` (R40, R42). -/
def State.faultPin (s : State) : Bool := s.err != 0

end Sys2Proof.Machine
end

