-- ==== Sys2Proof/Machine/Run.lean ====
section
/-! DEFINITION. Runs (R305): words presented in order, the engine steps they cause, the response words in order and the final
state; and the pseudo-instructions as sequences of commands (R96). -/

namespace Sys2Proof.Machine

/-- The host presents these words, in order, after what it does already (R305). -/
def State.presentWords (s : State) (words : List CmdWord) : State :=
  { s with input := s.input ++ words.map .cmd }

/-- The host presents the words of these commands, in order. -/
def State.present (s : State) (cmds : List Instr) : State := s.presentWords (cmds.map encode)

/-- A run is over when its last word has been accepted and `BUSY = 0` (R305). -/
def State.runOver (s : State) : Bool := s.input.isEmpty && !s.busy

/-- A run is clean when `ERR = 0` at its end (R305). -/
def State.clean (s : State) : Bool := s.err == 0

/-- The result of a run (R305). -/
structure RunResult where
  responses : List CmdWord
  final : State
  deriving DecidableEq, Repr

/-- The response of the step just taken goes in front; the host takes every response (R242 b). -/
def RunResult.after (s : State) (res : RunResult) : RunResult :=
  { res with responses := s.rsp.toList ++ res.responses }

/-- The result of the run that `s` is in, if it is over within `fuel` steps (R305). -/
def runToEnd (t : Tables) : Nat → State → Option RunResult
  | 0, s => if s.runOver then some ⟨[], s⟩ else none
  | fuel + 1, s =>
    if s.runOver then some ⟨[], s⟩
    else
      match clockEdge t s with
      | .next s' => (runToEnd t fuel s').map (RunResult.after s')
      | .fault _ => none
      | .refused _ => none

/-- `n` engine steps in a row (R178). -/
def engineSteps (t : Tables) : Nat → State → StepOut
  | 0, s => .next s
  | n + 1, s =>
    match engineStep t s with
    | .next s' => engineSteps t n s'
    | .fault f => .fault f
    | .refused f => .refused f

/-- Commands executed one after the other, each by its own rule, until one stops (R70). -/
def execAll : List Instr → State → StepOut
  | [], s => .next s
  | i :: is, s =>
    match exec i s with
    | .next s' => execAll is s'
    | .fault f => .fault f
    | .refused f => .refused f

/-- The responses of commands executed one after the other: each command's response, if it gives one (R41, R70). -/
def responsesOf : List Instr → State → List CmdWord
  | [], _ => []
  | i :: is, s =>
    match exec i { s with rsp := none } with
    | .next s' => s'.rsp.toList ++ responsesOf is s'
    | .fault _ => []
    | .refused _ => []

/-- `BLOCK b0, ..., b7`: the pushes, then LDBLK (R96). -/
def blockCmds (bytes : List Byte) : List Instr := bytes.map .dpush ++ [.ldblk]

/-- `KEY k0, ..., k7`: the pushes, then LDKEY (R96). -/
def keyCmds (bytes : List Byte) : List Instr := bytes.map .dpush ++ [.ldkey]

/-- `READ8`: UNLD and eight DPOPs (R96). -/
def read8Cmds : List Instr := .unld :: List.replicate 8 .dpop

/-- `ENCBLK` or `DECBLK`: `BLOCK`, the transform, `READ8` (R96). -/
def transformCmds (start : Instr) (bytes : List Byte) : List Instr := blockCmds bytes ++ start :: read8Cmds

end Sys2Proof.Machine
end

