-- ==== Sys2Proof/Machine/Assembler.lean ====
section
/-! DEFINITION. The assembler syntax and the pseudo-instructions (R95, R96): lines as data, the words a line assembles to, and
the reading of a line of text. The assembler is the host's tool, not hardware. -/

namespace Sys2Proof.Machine

/-- One line of an assembly program, its numbers not yet checked (R95, R96). -/
inductive AsmLine where
  | nop
  | dpush (b : Nat)
  | ldblk
  | ldkey
  | enc
  | dec
  | unld
  | dpop
  | rdsk (i j : Nat)
  | stat (sel : Nat)
  | init
  /-- The directive `.word 0xhhhh`: the one way to spell an illegal word. -/
  | word (w : Nat)
  | block (bytes : List Nat)
  | key (bytes : List Nat)
  | read8
  | encblk (bytes : List Nat)
  | decblk (bytes : List Nat)
  deriving DecidableEq, Repr

/-- Exactly eight numbers in 0..255, as bytes. -/
def eightBytes (ns : List Nat) : Option (List Byte) :=
  if ns.length = 8 ∧ ∀ n ∈ ns, n < 256 then some (ns.map (BitVec.ofNat 8)) else none

/-- `RDSK i, j` with i in 0..15 and j in 0..5 (R95): the first table row for the lanes 0..3, the second for 4 and 5. -/
def rdskOf (i j : Nat) : Option Instr :=
  if 16 ≤ i ∨ 6 ≤ j then none
  else if j < 4 then some (.rdskLow (BitVec.ofNat 4 i) (BitVec.ofNat 2 j))
  else some (.rdskHigh (BitVec.ofNat 4 i) (BitVec.ofNat 1 (j - 4)))

/-- `STAT s` with s in 0..2 (R95). -/
def statOf (sel : Nat) : Option Instr :=
  if 3 ≤ sel then none
  else if sel < 2 then some (.statLow (BitVec.ofNat 1 sel))
  else some .statRc

/-- The commands of a line, or `none` where an operand is out of range: an assembler refuses it (R95). -/
def AsmLine.cmds : AsmLine → Option (List Instr)
  | .nop => some [.nop]
  | .dpush b => if b < 256 then some [.dpush (BitVec.ofNat 8 b)] else none
  | .ldblk => some [.ldblk]
  | .ldkey => some [.ldkey]
  | .enc => some [.enc]
  | .dec => some [.dec]
  | .unld => some [.unld]
  | .dpop => some [.dpop]
  | .rdsk i j => (rdskOf i j).map fun c => [c]
  | .stat sel => (statOf sel).map fun c => [c]
  | .init => some [.init]
  | .word _ => none
  | .block bytes => (eightBytes bytes).map blockCmds
  | .key bytes => (eightBytes bytes).map keyCmds
  | .read8 => some read8Cmds
  | .encblk bytes => (eightBytes bytes).map (transformCmds .enc)
  | .decblk bytes => (eightBytes bytes).map (transformCmds .dec)

/-- The words a line assembles to (R95, R96). `.word` emits the 16-bit word given, legal or not. -/
def AsmLine.words : AsmLine → Option (List CmdWord)
  | .word w => if w < 65536 then some [BitVec.ofNat 16 w] else none
  | line => line.cmds.map fun is => is.map encode

/-- A program assembles to its lines' words, in order, if every line does. -/
def assemble : List AsmLine → Option (List CmdWord)
  | [] => some []
  | line :: rest =>
    match line.words, assemble rest with
    | some ws, some more => some (ws ++ more)
    | _, _ => none

/-- The characters between tokens. -/
def isBlankChar (c : Char) : Bool := c == ' ' || c == '\t'

/-- The text without the blanks at its ends. -/
def trimBlanks (cs : List Char) : List Char :=
  ((cs.dropWhile isBlankChar).reverse.dropWhile isBlankChar).reverse

/-- The operands of a line: the pieces between commas (R95). -/
def splitAtCommas : List Char → List (List Char)
  | [] => [[]]
  | c :: cs =>
    match splitAtCommas cs with
    | [] => [[]]
    | piece :: pieces => if c == ',' then [] :: piece :: pieces else (c :: piece) :: pieces

/-- The value of a digit in a base up to 16. -/
def digitValue (base : Nat) (c : Char) : Option Nat :=
  let v :=
    if '0' ≤ c ∧ c ≤ '9' then c.toNat - '0'.toNat
    else if 'a' ≤ c ∧ c ≤ 'f' then c.toNat - 'a'.toNat + 10
    else if 'A' ≤ c ∧ c ≤ 'F' then c.toNat - 'A'.toNat + 10
    else base
  if v < base then some v else none

/-- A row of digits, most significant first, continuing the value `acc`. -/
def digitsValue (base : Nat) : Nat → List Char → Option Nat
  | acc, [] => some acc
  | acc, c :: cs =>
    match digitValue base c with
    | some v => digitsValue base (base * acc + v) cs
    | none => none

/-- A number: decimal, or hexadecimal with `0x` (R95). -/
def parseNumber : List Char → Option Nat
  | [] => none
  | ['0', 'x'] => none
  | '0' :: 'x' :: ds => digitsValue 16 0 ds
  | ds => digitsValue 10 0 ds

/-- A line from its mnemonic, in capitals, and its operands (R95, R96). -/
def lineOf (mnemonic : List Char) (operands : List Nat) : Option AsmLine :=
  match operands with
  | [] =>
    if mnemonic = "NOP".toList then some .nop
    else if mnemonic = "LDBLK".toList then some .ldblk
    else if mnemonic = "LDKEY".toList then some .ldkey
    else if mnemonic = "ENC".toList then some .enc
    else if mnemonic = "DEC".toList then some .dec
    else if mnemonic = "UNLD".toList then some .unld
    else if mnemonic = "DPOP".toList then some .dpop
    else if mnemonic = "INIT".toList then some .init
    else if mnemonic = "READ8".toList then some .read8
    else none
  | [n] =>
    if mnemonic = "DPUSH".toList then some (.dpush n)
    else if mnemonic = "STAT".toList then some (.stat n)
    else if mnemonic = ".word".toList then some (.word n)
    else none
  | [i, j] => if mnemonic = "RDSK".toList then some (.rdsk i j) else none
  | bytes =>
    if mnemonic = "BLOCK".toList then some (.block bytes)
    else if mnemonic = "KEY".toList then some (.key bytes)
    else if mnemonic = "ENCBLK".toList then some (.encblk bytes)
    else if mnemonic = "DECBLK".toList then some (.decblk bytes)
    else none

/-- What a line of text is. -/
inductive LineText where
  /-- Nothing but blanks and a comment. -/
  | blank
  | line (l : AsmLine)
  /-- Not of the syntax of R95. -/
  | syntaxError
  deriving DecidableEq, Repr

/-- One line of text: a comment runs from `;` to its end, a mnemonic comes first, then operands separated by commas
(R95). DESIGN CHOICE (log entry 12): blanks may stand between tokens. -/
def readLine (cs : List Char) : LineText :=
  let body := trimBlanks (cs.takeWhile (fun c => c != ';'))
  let mnemonic := body.takeWhile (fun c => !isBlankChar c)
  let operands := trimBlanks (body.dropWhile (fun c => !isBlankChar c))
  if body = [] then .blank
  else
    match if operands = [] then some [] else (splitAtCommas operands).mapM (fun p => parseNumber (trimBlanks p)) with
    | none => .syntaxError
    | some ns =>
      match lineOf mnemonic ns with
      | some l => .line l
      | none => .syntaxError

/-- A program text, one command per line (R95): its words, or `none` where a line is refused. -/
def assembleText : List (List Char) → Option (List CmdWord)
  | [] => some []
  | cs :: rest =>
    match readLine cs with
    | .blank => assembleText rest
    | .syntaxError => none
    | .line l =>
      match l.words, assembleText rest with
      | some ws, some more => some (ws ++ more)
      | _, _ => none

end Sys2Proof.Machine
end

