-- ==== Sys2Proof/Machine/TestTables.lean ====
section
/-! DEFINITION. The named tables of the spec: the default `ETAB` (R142) and the test configuration TC-DES (R160), used by tests
alone; and the reading of a raw configuration, which refuses an ill-formed one (R155). -/

namespace Sys2Proof

/-- The position the spec numbers `p`. -/
def positionOf (p : Nat) : Position 32 := Fin.ofNat 32 (p - 1)

/-- The default of `ETAB`, eight rows of six (R142). -/
def defaultEtab : Vector (Position 32) 48 :=
  #v[32, 1, 2, 3, 4, 5,
     4, 5, 6, 7, 8, 9,
     8, 9, 10, 11, 12, 13,
     12, 13, 14, 15, 16, 17,
     16, 17, 18, 19, 20, 21,
     20, 21, 22, 23, 24, 25,
     24, 25, 26, 27, 28, 29,
     28, 29, 30, 31, 32, 1].map positionOf

/-- `PTAB` of TC-DES (R160). -/
def tcDesPtab : Vector (Position 32) 32 :=
  #v[16, 7, 20, 21, 29, 12, 28, 17,
     1, 15, 23, 26, 5, 18, 31, 10,
     2, 8, 24, 14, 32, 27, 3, 9,
     19, 13, 30, 6, 22, 11, 4, 25].map positionOf

/-- `SBOX[0]` of TC-DES (R160). -/
def tcDesSbox0 : Vector (Vector (BitVec 4) 16) 4 :=
  #v[#v[14, 4, 13, 1, 2, 15, 11, 8, 3, 10, 6, 12, 5, 9, 0, 7],
     #v[0, 15, 7, 4, 14, 2, 13, 1, 10, 6, 12, 11, 9, 5, 3, 8],
     #v[4, 1, 14, 8, 13, 6, 2, 11, 15, 12, 9, 7, 3, 10, 5, 0],
     #v[15, 12, 8, 2, 4, 9, 1, 7, 5, 11, 3, 14, 10, 0, 6, 13]]

/-- `SBOX[1]` of TC-DES (R160). -/
def tcDesSbox1 : Vector (Vector (BitVec 4) 16) 4 :=
  #v[#v[15, 1, 8, 14, 6, 11, 3, 4, 9, 7, 2, 13, 12, 0, 5, 10],
     #v[3, 13, 4, 7, 15, 2, 8, 14, 12, 0, 1, 10, 6, 9, 11, 5],
     #v[0, 14, 7, 11, 10, 4, 13, 1, 5, 8, 12, 6, 9, 3, 2, 15],
     #v[13, 8, 10, 1, 3, 15, 4, 2, 11, 6, 7, 12, 0, 5, 14, 9]]

/-- `SBOX[2]` of TC-DES (R160). -/
def tcDesSbox2 : Vector (Vector (BitVec 4) 16) 4 :=
  #v[#v[10, 0, 9, 14, 6, 3, 15, 5, 1, 13, 12, 7, 11, 4, 2, 8],
     #v[13, 7, 0, 9, 3, 4, 6, 10, 2, 8, 5, 14, 12, 11, 15, 1],
     #v[13, 6, 4, 9, 8, 15, 3, 0, 11, 1, 2, 12, 5, 10, 14, 7],
     #v[1, 10, 13, 0, 6, 9, 8, 7, 4, 15, 14, 3, 11, 5, 2, 12]]

/-- `SBOX[3]` of TC-DES (R160). -/
def tcDesSbox3 : Vector (Vector (BitVec 4) 16) 4 :=
  #v[#v[7, 13, 14, 3, 0, 6, 9, 10, 1, 2, 8, 5, 11, 12, 4, 15],
     #v[13, 8, 11, 5, 6, 15, 0, 3, 4, 7, 2, 12, 1, 10, 14, 9],
     #v[10, 6, 9, 0, 12, 11, 7, 13, 15, 1, 3, 14, 5, 2, 8, 4],
     #v[3, 15, 0, 6, 10, 1, 13, 8, 9, 4, 5, 11, 12, 7, 2, 14]]

/-- TC-DES (R160): for tests only; no source says the hardware uses it. -/
def tcDes : Tables := ⟨defaultEtab, tcDesPtab, #v[tcDesSbox0, tcDesSbox1, tcDesSbox2, tcDesSbox3]⟩

/-- A list read as a vector of the given length. -/
def vectorOf {α : Type} (n : Nat) (xs : List α) : Option (Vector α n) :=
  if h : xs.toArray.size = n then some ⟨xs.toArray, h⟩ else none

/-- A raw configuration as the tables of the step; an ill-formed one is refused (R155). -/
def tablesOf (raw : RawTables) : Option Tables :=
  if raw.wf then
    match vectorOf 48 (raw.etab.map positionOf), vectorOf 32 (raw.ptab.map positionOf),
        raw.sbox.mapM (fun rows => (rows.mapM fun row => vectorOf 16 (row.map (BitVec.ofNat 4))).bind (vectorOf 4)) with
    | some e, some p, some boxes => (vectorOf 4 boxes).map (Tables.mk e p)
    | _, _, _ => none
  else none

/-- The configuration in the spec's own numbering (R9). -/
def rawOf (t : Tables) : RawTables :=
  ⟨t.etab.toList.map (fun p => p.val + 1), t.ptab.toList.map (fun p => p.val + 1),
   t.sbox.toList.map fun rows => rows.toList.map fun row => row.toList.map BitVec.toNat⟩

/-- `ETAB_dup16` (R143): exactly 16 of the 32 positions occur twice and the other 16 once. A hypothesis a claim may take
by name; no rule needs it. -/
def EtabDup16 (t : Tables) : Prop :=
  (∀ p : Position 32, t.etab.toList.count p = 1 ∨ t.etab.toList.count p = 2)
    ∧ ((List.finRange 32).filter fun p => t.etab.toList.count p = 2).length = 16

/-- `PTAB_bijective` (R148): a hypothesis a claim may take by name; no rule needs it. -/
def PtabBijective (t : Tables) : Prop := Function.Bijective fun p : Position 32 => t.ptab.get p

end Sys2Proof
end

