-- ==== Sys2Proof/Machine/Facade.lean ====
section
/-! DEFINITION. The host obligations (45_host_sequences.md): key normalisation, padding, `encrypt` and `decrypt` as pure functions
on byte sequences, the command sequences that realise them on a core, and one host call. None of it is hardware
state (R5). -/

namespace Sys2Proof.Machine

/-- The errors of the host functions (R100, R232, R253 a). -/
inductive HostError where
  /-- A chunk given to the codec is not exactly eight bytes (R100). -/
  | invalidBlockLength
  /-- `decrypt` of a byte count that is not a multiple of 8 (R232). -/
  | invalidCiphertextLength
  deriving DecidableEq, Repr

/-- `normalize(rawKey)` (R215). -/
def normalizeKey (rawKey : List Byte) : List Byte :=
  if 8 ≤ rawKey.length then rawKey.take 8 else rawKey ++ List.replicate (8 - rawKey.length) 0

/-- How many bytes `pad` appends: `8 - (len mod 8)` (R220). -/
def padCount (data : List Byte) : Nat := 8 - data.length % 8

/-- `pad(data)` (R220). -/
def pad (data : List Byte) : List Byte :=
  data ++ List.replicate (padCount data) (BitVec.ofNat 8 (padCount data))

/-- `unpad(data)` (R221): only the last byte is looked at, and invalid padding passes through. -/
def unpad (data : List Byte) : List Byte :=
  match data.getLast? with
  | none => data
  | some b =>
    if 8 < b.toNat ∨ data.length < b.toNat then data else data.take (data.length - b.toNat)

/-- `bytesToBlock` on a byte sequence: defined on exactly eight bytes (R100). -/
def packChunk : List Byte → Except HostError Block
  | [b0, b1, b2, b3, b4, b5, b6, b7] => .ok (bytesToBlock b0 b1 b2 b3 b4 b5 b6 b7)
  | _ => .error .invalidBlockLength

/-- Each consecutive 8-byte chunk packed, transformed and unpacked; outputs in chunk order (R230, R231). -/
def mapChunks (f : Block → Block) : List Byte → Except HostError (List Byte)
  | [] => .ok []
  | b0 :: b1 :: b2 :: b3 :: b4 :: b5 :: b6 :: b7 :: rest =>
    match mapChunks f rest with
    | .ok out => .ok (blockToBytes (f (bytesToBlock b0 b1 b2 b3 b4 b5 b6 b7)) ++ out)
    | .error e => .error e
  | _ => .error .invalidBlockLength

/-- `deriveSubkeys(keyInt(normalize(key)))`, once per call (R230, R231). -/
def callSubkeys (key : List Byte) : Except HostError SubkeySet :=
  match packChunk (normalizeKey key) with
  | .ok k => .ok (deriveSubkeys k)
  | .error e => .error e

/-- `encrypt(plaintext, key)` (R230). -/
def encrypt (t : Tables) (plaintext key : List Byte) : Except HostError (List Byte) :=
  match callSubkeys key with
  | .ok sk => mapChunks (fun b => blockTransform t b sk .enc) (pad plaintext)
  | .error e => .error e

/-- `decrypt(ciphertext, key)` (R231, R232): the length is checked before anything else. -/
def decrypt (t : Tables) (ciphertext key : List Byte) : Except HostError (List Byte) :=
  if ciphertext.length % 8 ≠ 0 then .error .invalidCiphertextLength
  else
    match callSubkeys key with
    | .ok sk =>
      match mapChunks (fun b => blockTransform t b sk .dec) ciphertext with
      | .ok out => .ok (unpad out)
      | .error e => .error e
    | .error e => .error e

/-- For each chunk of the message: `BLOCK`, the transform, `READ8` (R240). A short last chunk is sent as it is, and the
hardware faults at its LDBLK (R232). -/
def messageCmds (start : Instr) : List Byte → List Instr
  | [] => []
  | b0 :: b1 :: b2 :: b3 :: b4 :: b5 :: b6 :: b7 :: rest =>
    transformCmds start [b0, b1, b2, b3, b4, b5, b6, b7] ++ messageCmds start rest
  | short => transformCmds start short

/-- The host sequence for `encrypt` (R240): INIT, the key, then the padded message. DESIGN CHOICE (log entry 15): INIT at the
start is optional but recommended, and this host always sends it. -/
def encryptCmds (plaintext key : List Byte) : List Instr :=
  .init :: keyCmds (normalizeKey key) ++ messageCmds .enc (pad plaintext)

/-- The host sequence for `decrypt`, after the host's length check (R232, R241). DESIGN CHOICE (log entry 15): as in
`encryptCmds`, the host always sends the optional INIT. -/
def decryptCmds (ciphertext key : List Byte) : Except HostError (List Instr) :=
  if ciphertext.length % 8 ≠ 0 then .error .invalidCiphertextLength
  else .ok (.init :: keyCmds (normalizeKey key) ++ messageCmds .dec ciphertext)

/-- The data byte of a response word: `rsp[7:0]` (R41). -/
def responseByte (w : CmdWord) : Byte := w.setWidth 8

/-- How a host call ends (R242). -/
inductive CallEnd where
  /-- Every command was accepted and no fault was seen: the data bytes of the responses, and the core after the call. -/
  | done (out : List Byte) (final : State)
  /-- `fault = 1` was seen: the call is given up without any bytes, and nothing more is presented (R242 d). -/
  | abandoned (final : State)
  deriving DecidableEq, Repr

/-- The response of the step just taken goes in front; the host takes every response (R242 b). -/
def CallEnd.after (s : State) : CallEnd → CallEnd
  | .done out final => .done (s.rsp.toList.map responseByte ++ out) final
  | .abandoned final => .abandoned final

/-- The end of the call that `s` is in, if it ends within `fuel` steps. On `fault = 1` the host gives the call up and
presents no further word (R242 d). DESIGN CHOICE (log entry 14): the host looks at `fault` after every step. -/
def callToEnd (t : Tables) : Nat → State → Option CallEnd
  | 0, s => if s.runOver then some (.done [] s) else none
  | fuel + 1, s =>
    if s.runOver then some (.done [] s)
    else
      match clockEdge t s with
      | .next s' =>
        if s'.faultPin then some (.abandoned { s' with input := [] })
        else (callToEnd t fuel s').map (CallEnd.after s')
      | .fault _ => none
      | .refused _ => none

/-- A host call on a core: the commands are presented in order, the responses taken, and the call given up on a fault
(R242). DESIGN CHOICE (log entry 14): it is given up right after the first step that shows a fault, and the fuel is the
bound of R305 for the commands, with 17 steps more for a transform that is still running. -/
def hostCall (t : Tables) (s : State) (cmds : List Instr) : Option CallEnd :=
  callToEnd t (18 * cmds.length + 17) (s.present cmds)

/-- The cause of a fault, read by a host that wants it after a call was abandoned: the responses of STAT 0 and STAT 1
(R242 d). DESIGN CHOICE (log entry 14): no host call reads it of itself. -/
def readCause (t : Tables) (s : State) : Option (CmdWord × CmdWord) :=
  match runToEnd t 2 (s.present [.statLow 0, .statLow 1]) with
  | some ⟨[status, word], _⟩ => some (status, word)
  | _ => none

/-- `encrypt` on a core (R240). -/
def hostEncrypt (t : Tables) (s : State) (plaintext key : List Byte) : Option CallEnd :=
  hostCall t s (encryptCmds plaintext key)

/-- The collected output of `decrypt`, unpadded by the host (R241). -/
def CallEnd.unpadded : CallEnd → CallEnd
  | .done out final => .done (unpad out) final
  | .abandoned final => .abandoned final

/-- `decrypt` on a core (R241): the length check is the host's, and the host unpads the output. -/
def hostDecrypt (t : Tables) (s : State) (ciphertext key : List Byte) : Except HostError (Option CallEnd) :=
  match decryptCmds ciphertext key with
  | .ok cmds => .ok ((hostCall t s cmds).map CallEnd.unpadded)
  | .error e => .error e

end Sys2Proof.Machine
end

