-- ==== Sys2Proof/Safety.lean ====
section
/-! DEFINITION. What claims use: the invariant of every reachable state (R45), the agreement of two states on all that a rule
may read (R50), and, for each command, whether it responds, runs in FAULT mode, and which fault it raises. -/

namespace Sys2Proof.Machine

/-- The invariant of R45, clause by clause. -/
structure State.Inv (s : State) : Prop where
  dcnt_le : s.dcnt.toNat ≤ 9
  scnt_le : s.scnt.toNat ≤ 8
  rc_le : s.rc.toNat ≤ 16
  err_le : s.err.toNat ≤ 5
  busy_kv : s.busy = true → s.kv = true
  busy_bv : s.busy = true → s.bv = true
  busy_err : s.busy = true → s.err = 0
  err_ecmd : s.err = 0 → s.ecmd = 0
  subkeys : s.kv = true → ∀ i : Fin 16, s.sk.get i = subkeyOf s.key i.val
  idle_rc : s.busy = false → s.rc = 0 ∨ s.rc = 16

/-- The bits of `DSR` that pushes have written since the deserializer was last emptied: the low `8 * min(DCNT, 8)`
(R24, R102). -/
def State.pushedBits (s : State) : Nat := 8 * min s.dcnt.toNat 8

/-- Two states that a host cannot tell apart by any later command (R36, R50): every flag, counter and port field agrees,
and so does each data register as far as its guard lets a rule read it: `KEY` and `SK` while `KV = 1`, `BLK` while
`BV = 1`, `L` and `R` while `BUSY = 1`, the pushed bits of `DSR` (none of them once the chunk is too long to be
loaded), `SSR` while `SCNT > 0`. -/
structure State.Agree (s t : State) : Prop where
  dcnt : s.dcnt = t.dcnt
  scnt : s.scnt = t.scnt
  dir : s.dir = t.dir
  rc : s.rc = t.rc
  kv : s.kv = t.kv
  bv : s.bv = t.bv
  busy : s.busy = t.busy
  err : s.err = t.err
  ecmd : s.ecmd = t.ecmd
  rsp : s.rsp = t.rsp
  input : s.input = t.input
  key : s.kv = true → s.key = t.key
  sk : s.kv = true → s.sk = t.sk
  blk : s.bv = true → s.blk = t.blk
  l : s.busy = true → s.l = t.l
  r : s.busy = true → s.r = t.r
  dsr : s.dcnt.toNat ≤ 8 → ∀ n < s.pushedBits, s.dsr.getLsbD n = t.dsr.getLsbD n
  ssr : s.scnt ≠ 0 → s.ssr = t.ssr

/-- Outcomes that agree: next states that agree, or the same stop. -/
def AgreeOut : StepOut → StepOut → Prop
  | .next s, .next t => s.Agree t
  | .fault f, .fault g => f = g
  | .refused f, .refused g => f = g
  | _, _ => False

/-- The commands that are executed in FAULT mode too (R82, R262). -/
def runsInFaultMode : Instr → Bool
  | .nop => true
  | .dpush _ => false
  | .ldblk => false
  | .ldkey => false
  | .enc => false
  | .dec => false
  | .unld => false
  | .dpop => false
  | .rdskLow _ _ => false
  | .rdskHigh _ _ => false
  | .statLow _ => true
  | .statRc => true
  | .init => true

/-- The commands that call `respond` (R41): DPOP, RDSK, STAT. -/
def responds : Instr → Bool
  | .nop => false
  | .dpush _ => false
  | .ldblk => false
  | .ldkey => false
  | .enc => false
  | .dec => false
  | .unld => false
  | .dpop => true
  | .rdskLow _ _ => true
  | .rdskHigh _ _ => true
  | .statLow _ => true
  | .statRc => true
  | .init => false

/-- The fault a command raises in READY mode, if its preconditions fail (R250), the first failing one (R263). -/
def faultOf (i : Instr) (s : State) : Option FaultCode :=
  match i with
  | .nop => none
  | .dpush _ => none
  | .ldblk => if s.dcnt = 8 then none else some .invalidBlockLength
  | .ldkey => if s.dcnt = 8 then none else some .invalidBlockLength
  | .enc => if s.kv then (if s.bv then none else some .blockNotLoaded) else some .keyNotLoaded
  | .dec => if s.kv then (if s.bv then none else some .blockNotLoaded) else some .keyNotLoaded
  | .unld => if s.bv then none else some .blockNotLoaded
  | .dpop => if s.scnt = 0 then some .serializerEmpty else none
  | .rdskLow _ _ => if s.kv then none else some .keyNotLoaded
  | .rdskHigh _ _ => if s.kv then none else some .keyNotLoaded
  | .statLow _ => none
  | .statRc => none
  | .init => none

end Sys2Proof.Machine
end

