-- ==== Sys2Proof/Certificates/Slice0/Obligations.lean ====
section
/-! DEFINITION. The statements for the provers. Each docstring names the rule of the spec it formalises; a statement about the
clock edge or about the tables holds for every configuration, so for the one the hardware was built with. -/

open Sys2Proof Sys2Proof.Machine

/-! ### Encoding (30_encoding.md) -/

/-- R84: a word decodes to a command exactly when it is that command's encoding, for every word and every command. -/
def Obligations.DecodeIffEncode : Prop :=
  ∀ (cw : CmdWord) (i : Instr), decode cw = .ok i ↔ encode i = cw

/-- R84, R90: the table, which the decoder reads, leaves out exactly the words that R90 lists as illegal; an illegal word
in READY mode raises IllegalCommand (code 2) with `ECMD = cw`. -/
def Obligations.IllegalWordsAreTheListedOnes : Prop :=
  (∀ cw : CmdWord, decode cw = .error .illegalCommand ↔ illegalWord cw = true)
    ∧ ∀ (cw : CmdWord) (s : State), illegalWord cw = true → s.mode = .ready →
        acceptWord cw s = .next { s with err := 2, ecmd := cw }

/-- R84: "the rows alone, with no side condition, select exactly the legal words", each by one row. -/
def Obligations.RowsSelectTheLegalWords : Prop :=
  ∀ cw : CmdWord, (opcodeRows.filter fun row => row.selects cw).length = if illegalWord cw then 0 else 1

/-- R84: words written out from the columns op, arg and imm of the table. -/
def Obligations.SampleWordsDecode : Prop :=
  decode 0x0000 = .ok .nop ∧ decode 0x1045 = .ok (.dpush 0x45) ∧ decode 0x2000 = .ok .ldblk
    ∧ decode 0x3000 = .ok .ldkey ∧ decode 0x4000 = .ok .enc ∧ decode 0x4100 = .ok .dec ∧ decode 0x5000 = .ok .unld
    ∧ decode 0x6000 = .ok .dpop ∧ decode 0x7F03 = .ok (.rdskLow 15 3) ∧ decode 0x7A05 = .ok (.rdskHigh 10 1)
    ∧ decode 0x8100 = .ok (.statLow 1) ∧ decode 0x8200 = .ok .statRc ∧ decode 0x9000 = .ok .init

/-! ### The clock edge (R40, R81, R290) -/

/-- A word presented in a state with `BUSY = 0` that decodes to a command: the step is that command's `exec`, after the
word is consumed and the response port lowered (R40, R41, R82). -/
def Obligations.StepRunsTheDecodedCommand : Prop :=
  ∀ (s : State) (cw : CmdWord) (rest : List PortEvent) (i : Instr),
    s.busy = false → s.input = .cmd cw :: rest → decode cw = .ok i →
      step s = exec i { s with rsp := none, input := rest }

/-- R81, R178: at every clock edge with `BUSY = 1` and `rst = 0` the step is the engine step: a presented word stays
presented, an idle edge is over. The list of port events is the model's (log entry 1). -/
def Obligations.BusyHoldsTheWord : Prop :=
  ∀ s : State, s.busy = true →
    (∀ (cw : CmdWord) (rest : List PortEvent), s.input = .cmd cw :: rest →
        step s = engineStep Config.tables { s with rsp := none })
      ∧ (∀ rest : List PortEvent, s.input = .idle :: rest →
          step s = engineStep Config.tables { s with rsp := none, input := rest })
      ∧ (s.input = [] → step s = engineStep Config.tables { s with rsp := none })

/-- With nothing presented and `BUSY = 0` no step is enabled (R288): a clock edge changes nothing but lowers `rsp_valid`
(the model's choice, log entry 2). -/
def Obligations.QuietEdgeKeepsTheState : Prop :=
  (∀ s : State, s.busy = false → s.input = [] → step s = .next { s with rsp := none })
    ∧ ∀ (s : State) (rest : List PortEvent), s.busy = false → s.input = .idle :: rest →
        step s = .next { s with rsp := none, input := rest }

/-- R290: the reset step, whatever the mode and whatever comes after on the command port. The data registers are
unspecified, so nothing is said of them. -/
def Obligations.ResetStepClearsTheFlags : Prop :=
  ∀ (s : State) (rest : List PortEvent), s.input = .rst :: rest →
    s.cmdReady = false ∧ ∃ t, step s = .next t ∧ t.dcnt = 0 ∧ t.scnt = 0 ∧ t.rc = 0 ∧ t.dir = .enc ∧ t.kv = false
      ∧ t.bv = false ∧ t.busy = false ∧ t.err = 0 ∧ t.ecmd = 0 ∧ t.mode = .ready ∧ t.rspValid = false
      ∧ t.busyPin = false ∧ t.faultPin = false ∧ t.input = rest
      ∧ (rest.head? ≠ some .rst → t.cmdReady = true)

/-- R292: INIT and reset end in the same state, as far as the spec gives it a value: two next states that agree. The port
events are the model's (log entry 1). -/
def Obligations.InitEndsLikeReset : Prop :=
  ∀ (s : State) (rest : List PortEvent), s.busy = false →
    ∃ t u, step { s with input := .cmd 0x9000 :: rest } = .next t ∧ step { s with input := .rst :: rest } = .next u
      ∧ t.Agree u

/-- R50: the counters, flags, `STATUS` and outputs of the state after reset. The data registers, which the spec leaves
unspecified, are not in the statement. -/
def Obligations.ResetStateIsAsListed : Prop :=
  State.reset.dcnt = 0 ∧ State.reset.scnt = 0 ∧ State.reset.rc = 0 ∧ State.reset.dir = .enc ∧ State.reset.kv = false
    ∧ State.reset.bv = false ∧ State.reset.busy = false ∧ State.reset.err = 0 ∧ State.reset.ecmd = 0
    ∧ State.reset.status = 0 ∧ State.reset.cmdReady = true ∧ State.reset.rspValid = false
    ∧ State.reset.busyPin = false ∧ State.reset.faultPin = false ∧ State.reset.mode = .ready

/-! ### What each command does -/

/-- R200: NOP, in READY and in FAULT mode, leaves every register as it was, and in BUSY mode is not accepted; it is the only
legal word with `op = 0`. -/
def Obligations.NopChangesNothing : Prop :=
  encode .nop = 0x0000
    ∧ (∀ s : State, s.mode = .ready ∨ s.mode = .fault → exec .nop s = .next s)
    ∧ (∀ s : State, s.mode = .busy → s.cmdReady = false)
    ∧ ∀ cw : CmdWord, cwOp cw = 0 → cw ≠ 0 → decode cw = .error .illegalCommand

/-- R102: DPUSH b never faults in READY mode, shifts `b` in at the least significant end and counts up to 9. -/
def Obligations.DpushShiftsTheByteIn : Prop :=
  ∀ b : Byte, encode (.dpush b) = 0x1000#16 ||| b.setWidth 16
    ∧ ∀ s : State, s.mode = .ready →
        exec (.dpush b) s = .next { s with
          dsr := (s.dsr <<< 8) ||| b.setWidth 64
          dcnt := BitVec.ofNat 4 (min (s.dcnt.toNat + 1) 9) }

/-- R103: LDBLK with exactly eight bytes pushed loads `BLK`; otherwise it raises InvalidBlockLength (code 1) and changes
nothing else. -/
def Obligations.LdblkLoadsTheChunk : Prop :=
  encode .ldblk = 0x2000
    ∧ (∀ s : State, s.mode = .ready → s.dcnt = 8 →
        exec .ldblk s = .next { s with blk := s.dsr, bv := true, dcnt := 0 })
    ∧ ∀ s : State, s.mode = .ready → s.dcnt ≠ 8 → exec .ldblk s = .next { s with err := 1, ecmd := 0x2000 }

/-- R104: UNLD copies `BLK` into the serializer; without a block it raises BlockNotLoaded (code 4); in BUSY mode it is not
accepted. -/
def Obligations.UnldFillsTheSerializer : Prop :=
  encode .unld = 0x5000
    ∧ (∀ s : State, s.mode = .busy → s.cmdReady = false)
    ∧ (∀ s : State, s.mode = .ready → s.bv = true → exec .unld s = .next { s with ssr := s.blk, scnt := 8 })
    ∧ ∀ s : State, s.mode = .ready → s.bv = false → exec .unld s = .next { s with err := 4, ecmd := 0x5000 }

/-- R105: DPOP responds the most significant byte of `SSR`, shifts it out and counts down; on an empty serializer it raises
SerializerEmpty (code 5). After UNLD and `k` DPOPs the byte at the top is byte `k` of the block, and none is left at 8. -/
def Obligations.DpopHandsOutOneByte : Prop :=
  encode .dpop = 0x6000
    ∧ (∀ s : State, s.mode = .ready → s.scnt ≠ 0 →
        exec .dpop s = .next { s with
          rsp := some ((s.ssr.extractLsb' 56 8).setWidth 16)
          ssr := s.ssr <<< 8
          scnt := s.scnt - 1 })
    ∧ (∀ s : State, s.mode = .ready → s.scnt = 0 → exec .dpop s = .next { s with err := 5, ecmd := 0x6000 })
    ∧ ∀ (s : State) (k : Nat), s.mode = .ready → s.bv = true → k ≤ 8 →
        ∃ t, execAll (.unld :: List.replicate k .dpop) s = .next t ∧ t.mode = .ready ∧ t.scnt.toNat = 8 - k
          ∧ (k < 8 → t.ssr.extractLsb' 56 8 = blockByte s.blk k)

/-- R121: LDKEY with exactly eight bytes pushed loads `KEY` and derives all sixteen subkeys in the one step; otherwise it
raises InvalidBlockLength (code 1); in BUSY mode it is not accepted. -/
def Obligations.LdkeyDerivesAllSubkeys : Prop :=
  encode .ldkey = 0x3000
    ∧ (∀ s : State, s.mode = .busy → s.cmdReady = false)
    ∧ (∀ s : State, s.mode = .ready → s.dcnt = 8 →
        exec .ldkey s = .next { s with
          key := s.dsr
          sk := Vector.ofFn fun i => (s.dsr >>> i.val).extractLsb' 0 48
          kv := true
          dcnt := 0 })
    ∧ ∀ s : State, s.mode = .ready → s.dcnt ≠ 8 → exec .ldkey s = .next { s with err := 1, ecmd := 0x3000 }

/-- R124: RDSK i, j, in both its table rows, responds byte lane `j` of `SK[i]` and changes no register; without a key it
raises KeyNotLoaded (code 3); in FAULT mode it is dropped, in BUSY mode not accepted; a lane in 6..255 is an illegal word. -/
def Obligations.RdskReadsAByteLane : Prop :=
  (∀ (i : BitVec 4) (j : BitVec 2),
    encode (.rdskLow i j) = 0x7000#16 ||| (i.setWidth 16 <<< 8) ||| j.setWidth 16
      ∧ (∀ s : State, s.mode = .ready → s.kv = true →
          exec (.rdskLow i j) s = .next { s with
            rsp := some (((s.sk.get i.toFin).extractLsb' (40 - 8 * j.toNat) 8).setWidth 16) })
      ∧ (∀ s : State, s.mode = .ready → s.kv = false →
          exec (.rdskLow i j) s = .next { s with err := 3, ecmd := encode (.rdskLow i j) })
      ∧ ∀ s : State, s.mode = .fault → exec (.rdskLow i j) s = .next s)
  ∧ (∀ (i : BitVec 4) (j : BitVec 1),
    encode (.rdskHigh i j) = 0x7004#16 ||| (i.setWidth 16 <<< 8) ||| j.setWidth 16
      ∧ (∀ s : State, s.mode = .ready → s.kv = true →
          exec (.rdskHigh i j) s = .next { s with
            rsp := some (((s.sk.get i.toFin).extractLsb' (40 - 8 * (4 + j.toNat)) 8).setWidth 16) })
      ∧ (∀ s : State, s.mode = .ready → s.kv = false →
          exec (.rdskHigh i j) s = .next { s with err := 3, ecmd := encode (.rdskHigh i j) })
      ∧ ∀ s : State, s.mode = .fault → exec (.rdskHigh i j) s = .next s)
  ∧ (∀ s : State, s.mode = .busy → s.cmdReady = false)
  ∧ ∀ cw : CmdWord, cwOp cw = 0x7 → 6 ≤ (cwImm cw).toNat → decode cw = .error .illegalCommand

/-- R174: ENC starts a transform in the encryption direction, during which the port is closed; KeyNotLoaded (code 3) is checked
before BlockNotLoaded (code 4). -/
def Obligations.EncStartsATransform : Prop :=
  encode .enc = 0x4000
    ∧ (∀ s : State, s.mode = .busy → s.cmdReady = false)
    ∧ (∀ s : State, s.mode = .ready → s.kv = true → s.bv = true →
        exec .enc s = .next { s with
          dir := .enc, l := s.blk.extractLsb' 32 32, r := s.blk.extractLsb' 0 32, rc := 0, busy := true })
    ∧ (∀ s : State, s.mode = .ready → s.kv = false → exec .enc s = .next { s with err := 3, ecmd := 0x4000 })
    ∧ ∀ s : State, s.mode = .ready → s.kv = true → s.bv = false →
        exec .enc s = .next { s with err := 4, ecmd := 0x4000 }

/-- R175: DEC is ENC with `DIR <- 1`; nothing else differs. -/
def Obligations.DecStartsATransform : Prop :=
  encode .dec = 0x4100
    ∧ (∀ s : State, s.mode = .busy → s.cmdReady = false)
    ∧ (∀ s : State, s.mode = .ready → s.kv = true → s.bv = true →
        exec .dec s = .next { s with
          dir := .dec, l := s.blk.extractLsb' 32 32, r := s.blk.extractLsb' 0 32, rc := 0, busy := true })
    ∧ (∀ s : State, s.mode = .ready → s.kv = false → exec .dec s = .next { s with err := 3, ecmd := 0x4100 })
    ∧ ∀ s : State, s.mode = .ready → s.kv = true → s.bv = false →
        exec .dec s = .next { s with err := 4, ecmd := 0x4100 }

/-- R201: STAT 0 responds STATUS (R33), STAT 1 `ECMD`, STAT 2 `RC`, in READY and in FAULT mode, and changes no register;
`STATUS[9]` reads 0, and `RC` reads 0 or 16 in every state that meets the invariant; other selectors are illegal. -/
def Obligations.StatReportsTheStatus : Prop :=
  (∀ sel : BitVec 1, encode (.statLow sel) = 0x8000#16 ||| (sel.setWidth 16 <<< 8)) ∧ encode .statRc = 0x8200
    ∧ (∀ s : State, s.mode = .ready ∨ s.mode = .fault →
        exec (.statLow 0) s = .next { s with
          rsp := some (s.err ++ BitVec.ofBool s.kv ++ BitVec.ofBool s.bv ++ 0#1 ++ s.dir.bit ++ s.scnt ++ s.dcnt) }
        ∧ exec (.statLow 1) s = .next { s with rsp := some s.ecmd }
        ∧ exec .statRc s = .next { s with rsp := some (s.rc.setWidth 16) }
        ∧ (s.Inv → s.rc = 0 ∨ s.rc = 16))
    ∧ (∀ s : State, s.mode = .busy → s.cmdReady = false)
    ∧ ∀ cw : CmdWord, cwOp cw = 0x8 → 3 ≤ (cwArg cw).toNat ∨ cwImm cw ≠ 0 → decode cw = .error .illegalCommand

/-- R202: INIT, in READY and in FAULT mode, leaves the reset values of R50 in every counter and flag; the data registers
become unspecified, so nothing is said of them. No other word leads out of FAULT mode. -/
def Obligations.InitClearsTheFlags : Prop :=
  encode .init = 0x9000
    ∧ (∀ s : State, s.mode = .busy → s.cmdReady = false)
    ∧ (∀ s : State, s.mode = .ready ∨ s.mode = .fault →
        ∃ t, exec .init s = .next t ∧ t.dcnt = 0 ∧ t.scnt = 0 ∧ t.rc = 0 ∧ t.dir = .enc ∧ t.kv = false ∧ t.bv = false
          ∧ t.busy = false ∧ t.err = 0 ∧ t.ecmd = 0 ∧ t.status = 0 ∧ t.mode = .ready ∧ t.rsp = s.rsp
          ∧ t.input = s.input)
    ∧ ∀ (cw : CmdWord) (s t : State), s.mode = .fault → acceptWord cw s = .next t → t.mode ≠ .fault → cw = 0x9000

/-! ### Faults and modes (60_exceptions.md) -/

/-- R250, R263: in READY mode a command raises exactly the fault its preconditions name, the first that fails, and
otherwise none. -/
def Obligations.FaultsAreThoseListed : Prop :=
  ∀ (i : Instr) (s : State), s.mode = .ready →
    (∀ c, faultOf i s = some c → exec i s = .next { s with err := c.code, ecmd := encode i })
      ∧ (faultOf i s = none → ∃ t, exec i s = .next t ∧ t.err = 0)

/-- R260: whatever word is accepted in READY mode, if a fault is recorded after it then the step wrote `ERR` (1..5) and
`ECMD` (the word) and nothing else, and gave no response. -/
def Obligations.FaultEntryIsPrecise : Prop :=
  ∀ (cw : CmdWord) (s t : State), s.mode = .ready → acceptWord cw s = .next t → t.err ≠ 0 →
    1 ≤ t.err.toNat ∧ t.err.toNat ≤ 5 ∧ t = { s with err := t.err, ecmd := cw }

/-- R262: in FAULT mode every word but NOP, STAT and INIT is consumed and dropped, legal or illegal; the first fault stays
recorded until INIT; the port stays ready. -/
def Obligations.FaultModeDropsOtherWords : Prop :=
  (∀ (cw : CmdWord) (s : State), s.mode = .fault → (∀ i, decode cw = .ok i → runsInFaultMode i = false) →
      acceptWord cw s = .next s)
    ∧ (∀ (cw : CmdWord) (s t : State), s.mode = .fault → cw ≠ 0x9000 → acceptWord cw s = .next t →
        t.err = s.err ∧ t.ecmd = s.ecmd)
    ∧ ∀ s : State, s.mode = .fault → s.rstPin = false → s.cmdReady = true

/-- R280: the transitions between the operating modes, at any clock edge. -/
def Obligations.ModesChangeAsListed : Prop :=
  ∀ (tb : Tables) (s t : State), s.Inv → clockEdge tb s = .next t →
    (s.mode = .busy → t.mode ≠ .fault) ∧ (s.mode = .fault → t.mode ≠ .busy)
      ∧ (s.mode = .ready → t.mode = .busy →
          s.input.head? = some (.cmd 0x4000) ∨ s.input.head? = some (.cmd 0x4100))
      ∧ (s.mode = .busy → t.mode = .ready → s.rc = 16 ∨ s.input.head? = some .rst)
      ∧ (s.mode = .fault → t.mode = .ready → s.input.head? = some (.cmd 0x9000) ∨ s.input.head? = some .rst)
      ∧ (s.mode = .ready → t.mode = .fault → ∃ cw, s.input.head? = some (.cmd cw))

/-! ### What stays unchanged (10_state.md R51) -/

/-- R51: each register is written only by the commands of its column; a faulting command writes only `ERR` and `ECMD`; only
the commands that respond touch the response port; no command touches what the host does next. -/
def Obligations.CommandsWriteOnlyTheirColumns : Prop :=
  ∀ (i : Instr) (s t : State), exec i s = .next t →
    (i ≠ .ldkey → i ≠ .init → t.key = s.key ∧ t.sk = s.sk ∧ t.kv = s.kv)
      ∧ (i ≠ .ldblk → i ≠ .init → t.blk = s.blk ∧ t.bv = s.bv)
      ∧ (i ≠ .enc → i ≠ .dec → i ≠ .init →
          t.l = s.l ∧ t.r = s.r ∧ t.dir = s.dir ∧ t.rc = s.rc ∧ t.busy = s.busy)
      ∧ ((∀ b, i ≠ .dpush b) → i ≠ .init → t.dsr = s.dsr)
      ∧ ((∀ b, i ≠ .dpush b) → i ≠ .ldblk → i ≠ .ldkey → i ≠ .init → t.dcnt = s.dcnt)
      ∧ (i ≠ .unld → i ≠ .dpop → i ≠ .init → t.ssr = s.ssr ∧ t.scnt = s.scnt)
      ∧ (s.mode ≠ .ready ∨ faultOf i s = none → i ≠ .init → t.err = s.err ∧ t.ecmd = s.ecmd)
      ∧ (s.mode = .ready → faultOf i s ≠ none → t = { s with err := t.err, ecmd := t.ecmd })
      ∧ (responds i = false → t.rsp = s.rsp)
      ∧ (i ≠ .init → t.freeCtr = s.freeCtr) ∧ t.input = s.input

/-- R51, R125, R301, R302: while a transform runs, a clock edge without `rst` writes `L`, `R` and `RC`, or `BLK` and `BUSY`,
and nothing else of the core: the subkeys, the serializer and the deserializer stay as they are. -/
def Obligations.RunningTransformWritesOnlyItsOwn : Prop :=
  ∀ (tb : Tables) (s t : State), s.busy = true → s.input.head? ≠ some .rst → clockEdge tb s = .next t →
    t.key = s.key ∧ t.sk = s.sk ∧ t.dsr = s.dsr ∧ t.dcnt = s.dcnt ∧ t.ssr = s.ssr ∧ t.scnt = s.scnt ∧ t.dir = s.dir
      ∧ t.kv = s.kv ∧ t.bv = s.bv ∧ t.err = s.err ∧ t.ecmd = s.ecmd ∧ t.rsp = none ∧ t.freeCtr = s.freeCtr
      ∧ (s.rc.toNat < 16 → t.blk = s.blk ∧ t.busy = true)
      ∧ (s.rc = 16 → t.l = s.l ∧ t.r = s.r ∧ t.rc = s.rc)

/-- R28, R29: `KV` and `BV` are cleared only by INIT and reset, at any clock edge. -/
def Obligations.ValidFlagsFallOnlyAtInit : Prop :=
  ∀ (tb : Tables) (s t : State), clockEdge tb s = .next t →
    s.input.head? ≠ some .rst → s.input.head? ≠ some (.cmd 0x9000) →
      (s.kv = true → t.kv = true) ∧ (s.bv = true → t.bv = true)

/-- R41: a response follows a clock edge only when the edge accepted DPOP, RDSK or STAT; a command that faults or is dropped
gives none. -/
def Obligations.ResponsesComeFromThreeCommands : Prop :=
  ∀ (tb : Tables) (s t : State), clockEdge tb s = .next t → t.rsp ≠ none →
    s.busy = false ∧ t.err = s.err
      ∧ ∃ cw rest i, s.input = .cmd cw :: rest ∧ decode cw = .ok i ∧ responds i = true
          ∧ (s.mode = .fault → runsInFaultMode i = true)

/-! ### The codec and the key schedule (40_codec.md, 41_key_schedule.md) -/

/-- R100, R101: `bytesToBlock` packs big-endian and `blockToBytes` is its inverse, both ways. -/
def Obligations.CodecRoundTrip : Prop :=
  (∀ b0 b1 b2 b3 b4 b5 b6 b7 : Byte,
      packChunk [b0, b1, b2, b3, b4, b5, b6, b7] = .ok (b0 ++ b1 ++ b2 ++ b3 ++ b4 ++ b5 ++ b6 ++ b7)
        ∧ blockToBytes (bytesToBlock b0 b1 b2 b3 b4 b5 b6 b7) = [b0, b1, b2, b3, b4, b5, b6, b7])
    ∧ (∀ v : Block, (blockToBytes v).length = 8 ∧ packChunk (blockToBytes v) = .ok v)
    ∧ ∀ bytes : List Byte, bytes.length ≠ 8 → packChunk bytes = .error .invalidBlockLength

/-- R106: the eight pushes and LDBLK load `bytesToBlock` of the bytes and change nothing else but `DSR`; UNLD and the eight
DPOPs respond the bytes of `BLK` in order and empty the serializer; together they give the bytes back. -/
def Obligations.BlockThenReadGivesTheBytes : Prop :=
  (∀ (s : State) (b0 b1 b2 b3 b4 b5 b6 b7 : Byte), s.mode = .ready → s.dcnt = 0 →
      execAll (blockCmds [b0, b1, b2, b3, b4, b5, b6, b7]) s = .next { s with
        dsr := bytesToBlock b0 b1 b2 b3 b4 b5 b6 b7
        blk := bytesToBlock b0 b1 b2 b3 b4 b5 b6 b7
        bv := true
        dcnt := 0 }
      ∧ responsesOf (blockCmds [b0, b1, b2, b3, b4, b5, b6, b7] ++ read8Cmds) s
          = [b0, b1, b2, b3, b4, b5, b6, b7].map (BitVec.setWidth 16))
    ∧ ∀ s : State, s.mode = .ready → s.bv = true →
        responsesOf read8Cmds s = (blockToBytes s.blk).map (BitVec.setWidth 16)
          ∧ ∃ t, execAll read8Cmds s = .next t ∧ t = { s with ssr := 0, scnt := 0, rsp := t.rsp }

/-- R122: subkey `i` is the low 48 bits of the key shifted right by `i`, equivalently `key[47+i : i]`. -/
def Obligations.SubkeysAreShiftsOfTheKey : Prop :=
  ∀ (key : Block) (i : Fin 16),
    (deriveSubkeys key).get i = (key >>> i.val).setWidth 48 ∧ (deriveSubkeys key).get i = key.extractLsb' i.val 48

/-- R123: `key[63]` reaches no subkey; consecutive subkeys overlap in 47 bits; the keys 0 and 0x8000000000000000 give
sixteen zero subkeys, the all-ones key sixteen all-ones subkeys. -/
def Obligations.TopKeyBitReachesNoSubkey : Prop :=
  (∀ key : Block, deriveSubkeys (key ^^^ 0x8000000000000000) = deriveSubkeys key)
    ∧ (∀ (key : Block) (i : Nat), i < 15 →
        subkeyOf key (i + 1) = key.extractLsb' (48 + i) 1 ++ (subkeyOf key i).extractLsb' 1 47)
    ∧ ∀ i : Fin 16, (deriveSubkeys 0).get i = 0 ∧ (deriveSubkeys 0x8000000000000000).get i = 0
        ∧ (deriveSubkeys 0xFFFFFFFFFFFFFFFF).get i = 0xFFFFFFFFFFFF

/-! ### The round function (42_round_function.md), for every configuration -/

/-- R141: `e[48-p] = half[32 - ETAB[p]]` for every p in 1..48; `expand` is linear over xor and maps 0 to 0. Position `p` is
the element `p - 1` of `Position 48`, and `ETAB[p]` is one more than the stored element. -/
def Obligations.ExpandCopiesTheTableBits : Prop :=
  ∀ tb : Tables,
    (∀ (half : Half) (p : Fin 48),
        (expand tb half).getLsbD (48 - (p.val + 1)) = half.getLsbD (32 - ((tb.etab.get p).val + 1)))
      ∧ (∀ a b : Half, expand tb (a ^^^ b) = expand tb a ^^^ expand tb b) ∧ expand tb 0 = 0

/-- R145: nibble `g` of `substitute(mixed)`, nibble 0 most significant, is `SBOX[g mod 4][row][col]`, where the row is twice
the first bit of group `g` plus its last bit and the column its inner four bits, group 0 being `mixed[47:42]`. -/
def Obligations.SubstituteLooksUpEachGroup : Prop :=
  ∀ (tb : Tables) (mixed : BitVec 48) (g : Nat) (row : Fin 4) (col : Fin 16), g < 8 →
    row.val = 2 * (mixed.getLsbD (47 - 6 * g)).toNat + (mixed.getLsbD (42 - 6 * g)).toNat →
    col.val = (mixed.extractLsb' (43 - 6 * g) 4).toNat →
      (substitute tb mixed).extractLsb' (28 - 4 * g) 4 = ((tb.sbox.get (Fin.ofNat 4 (g % 4))).get row).get col

/-- R147: `q[32-p] = s[32 - PTAB[p]]` for every p in 1..32; `permute` is linear over xor and maps 0 to 0. -/
def Obligations.PermuteCopiesTheTableBits : Prop :=
  ∀ tb : Tables,
    (∀ (v : Half) (p : Fin 32),
        (permute tb v).getLsbD (32 - (p.val + 1)) = v.getLsbD (32 - ((tb.ptab.get p).val + 1)))
      ∧ (∀ a b : Half, permute tb (a ^^^ b) = permute tb a ^^^ permute tb b) ∧ permute tb 0 = 0

/-- R150: `F` depends on its arguments only through `expand(half) xor subkey`; so `F(0, 0) = F(0xFFFFFFFF, 0xFFFFFFFFFFFF)`,
and it is `permute(substitute(0))`. -/
def Obligations.RoundFunctionSeesOnlyTheMix : Prop :=
  ∀ tb : Tables,
    (∀ (h h' : Half) (k k' : Subkey), expand tb h ^^^ k = expand tb h' ^^^ k' →
        roundFunction tb h k = roundFunction tb h' k')
      ∧ roundFunction tb 0 0 = roundFunction tb 0xFFFFFFFF 0xFFFFFFFFFFFF
      ∧ roundFunction tb 0 0 = permute tb (substitute tb 0)

/-! ### The block transform (43_block_transform.md), for every configuration -/

/-- R176: ROUND, the one engine step while `RC < 16`: the old `R` becomes `L`, the new `R` is `L xor F(R, SK[r])` with
`r = RC` for encryption and `15 - RC` for decryption, and `RC` counts up. -/
def Obligations.RoundStepIsOneFeistelRound : Prop :=
  ∀ (tb : Tables) (s : State) (r : Fin 16), s.busy = true → s.rc.toNat < 16 →
    r.val = (match s.dir with | .enc => s.rc.toNat | .dec => 15 - s.rc.toNat) →
      engineStep tb s = .next { s with
        l := s.r
        r := s.l ^^^ permute tb (substitute tb (expand tb s.r ^^^ s.sk.get r))
        rc := s.rc + 1 }

/-- R177: FINAL, the one engine step at `RC = 16`: `BLK <- R ‖ L`, `BUSY <- 0`, and nothing else. -/
def Obligations.FinalStepJoinsTheHalves : Prop :=
  ∀ (tb : Tables) (s : State), s.busy = true → s.rc = 16 →
    engineStep tb s = .next { s with blk := s.r ++ s.l, busy := false }

/-- R178: after ENC or DEC the core takes exactly 17 engine steps, with `BUSY = 1` before each of them, and then `BLK` is the
block transform of what it was, `SK` is unchanged and the core is in READY mode: the small steps equal the big step. -/
def Obligations.SeventeenEngineStepsAreTheTransform : Prop :=
  ∀ (tb : Tables) (s : State) (i : Instr) (d : Direction),
    (i = .enc ∧ d = .enc ∨ i = .dec ∧ d = .dec) → s.mode = .ready → s.kv = true → s.bv = true →
      ∃ s1, exec i s = .next s1
        ∧ (∀ n, n < 17 → ∃ u, engineSteps tb n s1 = .next u ∧ u.busy = true ∧ u.rc.toNat = n)
        ∧ engineSteps tb 17 s1 = .next { s with
            dir := d
            l := (feistelRounds tb s.sk d 16 (entryHalves s.blk)).1
            r := (feistelRounds tb s.sk d 16 (entryHalves s.blk)).2
            rc := 16
            blk := blockTransform tb s.blk s.sk d }

/-- R178: run by the host interface, a transform takes 18 steps of the core (one command step and 17 engine steps), in
which the words the host presents after it are held (the port events are the model's, log entry 1). -/
def Obligations.TransformTakesEighteenSteps : Prop :=
  ∀ (s : State) (cw : CmdWord) (words : List CmdWord) (d : Direction),
    (cw = 0x4000 ∧ d = .enc ∨ cw = 0x4100 ∧ d = .dec) → s.mode = .ready → s.kv = true → s.bv = true →
    s.input = (cw :: words).map PortEvent.cmd →
      Host.Core.run core 18 s = .next { s with
        dir := d
        l := (feistelRounds Config.tables s.sk d 16 (entryHalves s.blk)).1
        r := (feistelRounds Config.tables s.sk d 16 (entryHalves s.blk)).2
        rc := 16
        blk := blockTransform Config.tables s.blk s.sk d
        rsp := none
        input := words.map PortEvent.cmd }

/-- R81, R178: the hold always lifts: from every state of a running transform the engine ends it in the engine steps that
are left, at most 17. -/
def Obligations.HoldAlwaysLifts : Prop :=
  ∀ (tb : Tables) (s : State), s.Inv → s.busy = true →
    ∃ t, engineSteps tb (17 - s.rc.toNat) s = .next t ∧ t.busy = false ∧ t.rc = 16 ∧ t.mode = .ready

/-- R180: decryption inverts encryption and encryption decryption, for every block, SubkeySet and configuration. -/
def Obligations.DecryptionInvertsEncryption : Prop :=
  ∀ (tb : Tables) (b : Block) (sk : SubkeySet),
    blockTransform tb (blockTransform tb b sk .enc) sk .dec = b
      ∧ blockTransform tb (blockTransform tb b sk .dec) sk .enc = b

/-- R180, at the port: from READY with a key and an empty deserializer, `BLOCK b0..b7; ENC; DEC; READ8` responds the bytes,
in a clean run (the run is the model's, R305). -/
def Obligations.EncDecReadsTheBytesBack : Prop :=
  ∀ (tb : Tables) (s : State) (b0 b1 b2 b3 b4 b5 b6 b7 : Byte),
    s.mode = .ready → s.kv = true → s.dcnt = 0 → s.input = [] →
      ∃ res, runToEnd tb 54 (s.present (blockCmds [b0, b1, b2, b3, b4, b5, b6, b7] ++ [.enc, .dec] ++ read8Cmds)) = some res
        ∧ res.responses = [b0, b1, b2, b3, b4, b5, b6, b7].map (BitVec.setWidth 16) ∧ res.final.clean = true

/-- R181 (a): when all sixteen subkeys are equal the two directions coincide. -/
def Obligations.EqualSubkeysMakeDirectionsAgree : Prop :=
  ∀ (tb : Tables) (b : Block) (sk : SubkeySet), (∀ i j : Fin 16, sk.get i = sk.get j) →
    blockTransform tb b sk .enc = blockTransform tb b sk .dec

/-- R181 (b): complementing the key and the block complements the result, in either direction. -/
def Obligations.ComplementedInputsComplementTheResult : Prop :=
  ∀ (tb : Tables) (b k : Block) (d : Direction),
    blockTransform tb (~~~b) (deriveSubkeys (~~~k)) d = ~~~(blockTransform tb b (deriveSubkeys k) d)

/-! ### Invariants and isolation (10_state.md R45, R50) -/

/-- R45: the state after reset meets the invariant (its data registers, log entry 4, play no part: `KV = 0`). -/
def Obligations.ResetStateMeetsTheInvariant : Prop := State.reset.Inv

/-- R45: every step of the core, from every state that meets the invariant, ends in one that meets it. -/
def Obligations.StepKeepsTheInvariant : Prop :=
  ∀ s t : State, s.Inv → step s = .next t → t.Inv

/-- R178, R305: from every state that meets the invariant the core takes a step: it never stops. For an idle core with
nothing presented R288 enables no step, and the step taken there is the model's choice (log entry 2). -/
def Obligations.StepNeverStops : Prop :=
  ∀ s : State, s.Inv → ∃ t, step s = .next t

/-- R50: no rule reads an unspecified register. Two states that agree on everything a guard lets a rule read take steps
that agree, with the same response, whatever the other bits are: also after INIT and reset, whatever is left there. -/
def Obligations.UnspecifiedRegistersAreUnobservable : Prop :=
  ∀ (tb : Tables) (s t : State), s.Inv → s.Agree t → AgreeOut (clockEdge tb s) (clockEdge tb t)

/-- R305: every run of `n` words from an idle core is over after at most `18 n` steps. -/
def Obligations.RunIsOverInTime : Prop :=
  ∀ (tb : Tables) (s : State) (words : List CmdWord), s.Inv → s.busy = false → s.input = [] →
    ∃ res, runToEnd tb (18 * words.length) (s.presentWords words) = some res ∧ res.final.runOver = true

/-! ### The host functions (45_host_sequences.md) -/

/-- R215: `normalize` always gives eight bytes, truncates a long key and pads a short one with zeros; so it is idempotent. -/
def Obligations.NormalizeGivesEightBytes : Prop :=
  ∀ k : List Byte, (normalizeKey k).length = 8 ∧ normalizeKey (normalizeKey k) = normalizeKey k
    ∧ (8 ≤ k.length → normalizeKey k = k.take 8)
    ∧ (k.length < 8 → normalizeKey k = k ++ List.replicate (8 - k.length) 0)

/-- R220, R223: `pad` appends n bytes of value n, 1 ≤ n ≤ 8, up to a multiple of 8, and `unpad` takes them off again, for
data of every length; the converse does not hold. -/
def Obligations.UnpadInvertsPad : Prop :=
  (∀ d : List Byte, ∃ n, 1 ≤ n ∧ n ≤ 8 ∧ n = 8 - d.length % 8 ∧ pad d = d ++ List.replicate n (BitVec.ofNat 8 n)
    ∧ (pad d).length % 8 = 0 ∧ unpad (pad d) = d)
  ∧ ∃ x : List Byte, pad (unpad x) ≠ x

/-- R221: `unpad` looks at the last byte alone: empty in, empty out; a last byte above 8 or above the length passes
the data through; otherwise that many bytes are removed, unchecked. -/
def Obligations.UnpadLooksAtTheLastByte : Prop :=
  unpad [] = [] ∧ ∀ (d : List Byte) (b : Byte),
    (8 < b.toNat ∨ d.length + 1 < b.toNat → unpad (d ++ [b]) = d ++ [b])
      ∧ (b.toNat ≤ 8 → b.toNat ≤ d.length + 1 → unpad (d ++ [b]) = (d ++ [b]).take (d.length + 1 - b.toNat))

/-- R233: `decrypt(encrypt(d, k), k) = d` for every message and every key, the empty ones included, and the length law. -/
def Obligations.DecryptInvertsEncrypt : Prop :=
  ∀ (tb : Tables) (d k : List Byte),
    ∃ c, encrypt tb d k = .ok c ∧ c.length = 8 * (d.length / 8 + 1) ∧ decrypt tb c k = .ok d

/-- R240: the host sequence of `encrypt`, `1 + 9 + 19 m` commands for `m` chunks, run on an idle core in READY mode, or in FAULT
mode after an abandoned call, with any configuration, ends with the bytes of the pure function `encrypt` and no fault.
The INIT at its start is the model's choice (log entry 15), and so are the port events (log entry 1). -/
def Obligations.CoreComputesEncrypt : Prop :=
  ∀ (tb : Tables) (s : State) (plaintext key : List Byte), s.busy = false → s.input = [] →
    (encryptCmds plaintext key).length = 1 + 9 + 19 * (plaintext.length / 8 + 1)
      ∧ ∃ out u, encrypt tb plaintext key = .ok out ∧ hostEncrypt tb s plaintext key = some (.done out u)
          ∧ u.runOver = true ∧ u.clean = true

/-- R232, R241: the host call of `decrypt` fails with InvalidCiphertextLength before any command when the length is no
multiple of 8; otherwise, on an idle core, it ends with the bytes of the pure function and no fault. The INIT at its
start is the model's choice (log entry 15), and so are the port events (log entry 1). -/
def Obligations.CoreComputesDecrypt : Prop :=
  ∀ (tb : Tables) (s : State) (ciphertext key : List Byte),
    (ciphertext.length % 8 ≠ 0 →
        decrypt tb ciphertext key = .error .invalidCiphertextLength
          ∧ hostDecrypt tb s ciphertext key = .error .invalidCiphertextLength)
      ∧ (ciphertext.length % 8 = 0 → s.busy = false → s.input = [] →
          ∃ out u, decrypt tb ciphertext key = .ok out ∧ hostDecrypt tb s ciphertext key = .ok (some (.done out u))
            ∧ u.runOver = true ∧ u.clean = true)

/-! ### The assembler (R95, R96) -/

/-- R95: each mnemonic's line, for every operand in range, assembles to the one word of its command; an operand out of range
is refused; `.word` emits any 16-bit word. The text of an operand-free line is its mnemonic in capitals. The lines as data
are the model's (log entry 12). -/
def Obligations.AssemblerSpellsTheLegalWords : Prop :=
  (∀ b : Byte, (AsmLine.dpush b.toNat).words = some [encode (.dpush b)])
    ∧ (∀ (i : BitVec 4) (j : BitVec 2), (AsmLine.rdsk i.toNat j.toNat).words = some [encode (.rdskLow i j)])
    ∧ (∀ (i : BitVec 4) (j : BitVec 1), (AsmLine.rdsk i.toNat (4 + j.toNat)).words = some [encode (.rdskHigh i j)])
    ∧ (∀ sel : BitVec 1, (AsmLine.stat sel.toNat).words = some [encode (.statLow sel)])
    ∧ (AsmLine.stat 2).words = some [encode .statRc]
    ∧ (∀ p ∈ ([("NOP", .nop, .nop), ("LDBLK", .ldblk, .ldblk), ("LDKEY", .ldkey, .ldkey), ("ENC", .enc, .enc),
          ("DEC", .dec, .dec), ("UNLD", .unld, .unld), ("DPOP", .dpop, .dpop), ("INIT", .init, .init)] :
          List (String × AsmLine × Instr)),
        readLine p.1.toList = .line p.2.1 ∧ p.2.1.words = some [encode p.2.2])
    ∧ (∀ b, 256 ≤ b → (AsmLine.dpush b).words = none)
    ∧ (∀ i j, 16 ≤ i ∨ 6 ≤ j → (AsmLine.rdsk i j).words = none)
    ∧ (∀ sel, 3 ≤ sel → (AsmLine.stat sel).words = none)
    ∧ ∀ w : CmdWord, (AsmLine.word w.toNat).words = some [w]

/-- R96: the pseudo-instructions and their expansions. -/
def Obligations.PseudoInstructionsExpand : Prop :=
  (AsmLine.read8).cmds = some [.unld, .dpop, .dpop, .dpop, .dpop, .dpop, .dpop, .dpop, .dpop]
    ∧ ∀ b0 b1 b2 b3 b4 b5 b6 b7 : Byte,
        let ns := [b0, b1, b2, b3, b4, b5, b6, b7].map BitVec.toNat
        let pushes : List Instr :=
          [.dpush b0, .dpush b1, .dpush b2, .dpush b3, .dpush b4, .dpush b5, .dpush b6, .dpush b7]
        let read : List Instr := [.unld, .dpop, .dpop, .dpop, .dpop, .dpop, .dpop, .dpop, .dpop]
        (AsmLine.block ns).cmds = some (pushes ++ [.ldblk]) ∧ (AsmLine.key ns).cmds = some (pushes ++ [.ldkey])
          ∧ (AsmLine.encblk ns).cmds = some (pushes ++ [.ldblk, .enc] ++ read)
          ∧ (AsmLine.decblk ns).cmds = some (pushes ++ [.ldblk, .dec] ++ read)

/-! ### A host call and faults (R242) -/

/-- A host call of any commands ends in one of two ways. Either no step of it showed a fault and its bytes are those of
the responses of the run; or it is abandoned without bytes and with nothing more presented (R242 d), in FAULT mode, where
STAT 0 and STAT 1 tell the cause (R242 d, R262). That it is abandoned right after the first step that showed a fault is the
model's choice, not R242's: the rule does not say when the host looks at `fault`, and the model's host looks after every
step (log entry 14). The port events are the model's too (log entry 1), and so is the bound on the steps (log entry 14). -/
def Obligations.HostCallStopsAtTheFirstFault : Prop :=
  ∀ (s : State) (cmds : List Instr), s.Inv → s.input = [] →
    (∃ out u n, hostCall Config.tables s cmds = some (.done out u) ∧ Host.Core.run core n (s.present cmds) = .next u
        ∧ u.runOver = true
        ∧ (∀ m, 1 ≤ m → m ≤ n → ∃ w, Host.Core.run core m (s.present cmds) = .next w ∧ w.err = 0)
        ∧ ∃ res, runToEnd Config.tables n (s.present cmds) = some res ∧ res.final = u
            ∧ out = res.responses.map responseByte)
      ∨ ∃ u w n, hostCall Config.tables s cmds = some (.abandoned u)
          ∧ Host.Core.run core (n + 1) (s.present cmds) = .next w ∧ w.err ≠ 0 ∧ u = { w with input := [] }
          ∧ (∀ m, 1 ≤ m → m ≤ n → ∃ v, Host.Core.run core m (s.present cmds) = .next v ∧ v.err = 0)
          ∧ u.mode = .fault ∧ readCause Config.tables u = some (u.status, u.ecmd)
end

