-- ==== Sys2Proof/Laws/Bits.lean ====
section
/-! SUPPORT. The bits of the concatenated words: a concatenation of fields is read bit by bit through these lemmas, which name
the field and its place, so that no later proof unfolds one. -/

namespace Sys2Proof.Machine

/-- The bits of a two-part concatenation, at a width given as one number. -/
theorem getLsbD_cat {m n w : Nat} (x : BitVec m) (y : BitVec n) (h : m + n = w) (i : Nat) :
    (BitVec.cast h (x ++ y)).getLsbD i = if i < n then y.getLsbD i else x.getLsbD (i - n) := by
  simp [BitVec.getLsbD_append]

/-- The bits of a command word (R80). -/
theorem getLsbD_assembleWord (op arg : BitVec 4) (imm : Byte) (i : Nat) :
    (assembleWord op arg imm).getLsbD i
      = if i < 8 then imm.getLsbD i else if i < 12 then arg.getLsbD (i - 8) else op.getLsbD (i - 12) := by
  have h : (assembleWord op arg imm).getLsbD i
      = if i < 8 then imm.getLsbD i else (op ++ arg).getLsbD (i - 8) := getLsbD_cat (op ++ arg) imm rfl i
  have h' : (op ++ arg).getLsbD (i - 8) = if i - 8 < 4 then arg.getLsbD (i - 8) else op.getLsbD (i - 8 - 4) :=
    getLsbD_cat op arg rfl (i - 8)
  rw [h, h']
  split
  · rfl
  · simp only [show i - 8 < 4 ↔ i < 12 by omega, Nat.sub_sub]

/-- The bits of two halves joined (R172). -/
theorem getLsbD_joinHalves (hi lo : Half) (i : Nat) :
    (joinHalves hi lo).getLsbD i = if i < 32 then lo.getLsbD i else hi.getLsbD (i - 32) := getLsbD_cat hi lo rfl i

/-- `v[63:56] ‖ ... ‖ v[7:0] = v` read backwards: bit `i` of a packed chunk is bit `i mod 8` of its byte `7 - i / 8`
(R62, R100). -/
theorem getLsbD_bytesToBlock (b0 b1 b2 b3 b4 b5 b6 b7 : Byte) (i : Nat) :
    (bytesToBlock b0 b1 b2 b3 b4 b5 b6 b7).getLsbD i
      = if i < 8 then b7.getLsbD i else if i < 16 then b6.getLsbD (i - 8) else if i < 24 then b5.getLsbD (i - 16)
        else if i < 32 then b4.getLsbD (i - 24) else if i < 40 then b3.getLsbD (i - 32)
        else if i < 48 then b2.getLsbD (i - 40) else if i < 56 then b1.getLsbD (i - 48) else b0.getLsbD (i - 56) := by
  have e7 : (bytesToBlock b0 b1 b2 b3 b4 b5 b6 b7).getLsbD i = if i < 8 then b7.getLsbD i
      else (b0 ++ b1 ++ b2 ++ b3 ++ b4 ++ b5 ++ b6).getLsbD (i - 8) := getLsbD_cat _ b7 rfl i
  rw [e7]
  simp only [BitVec.getLsbD_append]
  split_ifs <;> first | rfl | omega

/-- The bits of a substituted word: nibble `g`, counted from the most significant end, is group `g`'s (R145). -/
theorem getLsbD_substitute (t : Tables) (m : BitVec 48) (i : Nat) :
    (substitute t m).getLsbD i
      = if i < 4 then (substituteGroup t m 7).getLsbD i else if i < 8 then (substituteGroup t m 6).getLsbD (i - 4)
        else if i < 12 then (substituteGroup t m 5).getLsbD (i - 8)
        else if i < 16 then (substituteGroup t m 4).getLsbD (i - 12)
        else if i < 20 then (substituteGroup t m 3).getLsbD (i - 16)
        else if i < 24 then (substituteGroup t m 2).getLsbD (i - 20)
        else if i < 28 then (substituteGroup t m 1).getLsbD (i - 24) else (substituteGroup t m 0).getLsbD (i - 28) := by
  have e7 : (substitute t m).getLsbD i = if i < 4 then (substituteGroup t m 7).getLsbD i
      else (substituteGroup t m 0 ++ substituteGroup t m 1 ++ substituteGroup t m 2 ++ substituteGroup t m 3
        ++ substituteGroup t m 4 ++ substituteGroup t m 5 ++ substituteGroup t m 6).getLsbD (i - 4) :=
    getLsbD_cat _ (substituteGroup t m 7) rfl i
  rw [e7]
  simp only [BitVec.getLsbD_append]
  split_ifs <;> first | rfl | omega

/-- A value built position by position has, at position `q + 1` from the top, the bit it was given (R12). -/
theorem getLsbD_ofPositions {n : Nat} (f : Position n → Bool) (q : Position n) :
    (ofPositions f).getLsbD (n - (q.val + 1)) = f q := by
  have h := BitVec.getMsbD_ofFnBE f q.val
  simp only [q.isLt, dif_pos] at h
  rw [← h, BitVec.getMsbD_eq_getLsbD]
  simp [ofPositions, q.isLt, Nat.sub_sub, Nat.add_comm]

/-! The fields of an assembled word, and a word from its fields (R80). -/

theorem cwOp_assembleWord (op arg : BitVec 4) (imm : Byte) : cwOp (assembleWord op arg imm) = op := by
  refine BitVec.eq_of_getLsbD_eq fun i hi => ?_
  rw [cwOp, BitVec.getLsbD_extractLsb', getLsbD_assembleWord, if_neg (by omega), if_neg (by omega)]
  simp [hi]

theorem cwArg_assembleWord (op arg : BitVec 4) (imm : Byte) : cwArg (assembleWord op arg imm) = arg := by
  refine BitVec.eq_of_getLsbD_eq fun i hi => ?_
  rw [cwArg, BitVec.getLsbD_extractLsb', getLsbD_assembleWord, if_neg (by omega), if_pos (by omega)]
  simp [hi]

theorem cwImm_assembleWord (op arg : BitVec 4) (imm : Byte) : cwImm (assembleWord op arg imm) = imm := by
  refine BitVec.eq_of_getLsbD_eq fun i hi => ?_
  rw [cwImm, BitVec.getLsbD_extractLsb', getLsbD_assembleWord, if_pos (by omega)]
  simp [hi]

theorem assembleWord_fields (cw : CmdWord) : assembleWord (cwOp cw) (cwArg cw) (cwImm cw) = cw := by
  refine BitVec.eq_of_getLsbD_eq fun i hi => ?_
  rw [getLsbD_assembleWord]
  simp only [cwOp, cwArg, cwImm, BitVec.getLsbD_extractLsb']
  split_ifs with h1 h2
  · simp [h1]
  · have : 8 + (i - 8) = i := by omega
    simp [this, show i - 8 < 4 by omega]
  · have : 12 + (i - 12) = i := by omega
    simp [this, show i - 12 < 4 by omega]

theorem assembleWord_inj {op arg op' arg' : BitVec 4} {imm imm' : Byte} :
    assembleWord op arg imm = assembleWord op' arg' imm' ↔ op = op' ∧ arg = arg' ∧ imm = imm' := by
  refine ⟨fun h => ?_, by rintro ⟨rfl, rfl, rfl⟩; rfl⟩
  have h1 := congrArg cwOp h
  have h2 := congrArg cwArg h
  have h3 := congrArg cwImm h
  simp only [cwOp_assembleWord, cwArg_assembleWord, cwImm_assembleWord] at h1 h2 h3
  exact ⟨h1, h2, h3⟩

theorem assembleWord_and (op arg op' arg' : BitVec 4) (imm imm' : Byte) :
    assembleWord op arg imm &&& assembleWord op' arg' imm'
      = assembleWord (op &&& op') (arg &&& arg') (imm &&& imm') := by
  refine BitVec.eq_of_getLsbD_eq fun i hi => ?_
  simp only [BitVec.getLsbD_and, getLsbD_assembleWord]
  split_ifs <;> rfl

/-- A table row selects a word exactly when it selects each of its fields (R84). -/
theorem selects_assembleWord (row : OpcodeRow) (op arg : BitVec 4) (imm : Byte) :
    row.selects (assembleWord op arg imm)
      = ((op &&& cwOp row.mask) == cwOp row.pattern && (arg &&& cwArg row.mask) == cwArg row.pattern
          && (imm &&& cwImm row.mask) == cwImm row.pattern) := by
  rw [Bool.eq_iff_iff]
  simp only [OpcodeRow.selects, beq_iff_eq, Bool.and_eq_true]
  conv_lhs => rw [← assembleWord_fields row.mask, ← assembleWord_fields row.pattern, assembleWord_and, assembleWord_inj]
  exact and_assoc.symm

end Sys2Proof.Machine
end

