-- ==== Sys2Proof/Laws/State.lean ====
section
/-! SUPPORT. One lemma per field and per state update, each true by unfolding: later proofs cite them and unfold no record
update. -/

namespace Sys2Proof.Machine

/-! Fault entry (R260). -/

@[simp] theorem State.raise_key (s : State) (c : FaultCode) (cw : CmdWord) : (s.raise c cw).key = s.key := rfl
@[simp] theorem State.raise_sk (s : State) (c : FaultCode) (cw : CmdWord) : (s.raise c cw).sk = s.sk := rfl
@[simp] theorem State.raise_blk (s : State) (c : FaultCode) (cw : CmdWord) : (s.raise c cw).blk = s.blk := rfl
@[simp] theorem State.raise_l (s : State) (c : FaultCode) (cw : CmdWord) : (s.raise c cw).l = s.l := rfl
@[simp] theorem State.raise_r (s : State) (c : FaultCode) (cw : CmdWord) : (s.raise c cw).r = s.r := rfl
@[simp] theorem State.raise_dsr (s : State) (c : FaultCode) (cw : CmdWord) : (s.raise c cw).dsr = s.dsr := rfl
@[simp] theorem State.raise_dcnt (s : State) (c : FaultCode) (cw : CmdWord) : (s.raise c cw).dcnt = s.dcnt := rfl
@[simp] theorem State.raise_ssr (s : State) (c : FaultCode) (cw : CmdWord) : (s.raise c cw).ssr = s.ssr := rfl
@[simp] theorem State.raise_scnt (s : State) (c : FaultCode) (cw : CmdWord) : (s.raise c cw).scnt = s.scnt := rfl
@[simp] theorem State.raise_dir (s : State) (c : FaultCode) (cw : CmdWord) : (s.raise c cw).dir = s.dir := rfl
@[simp] theorem State.raise_rc (s : State) (c : FaultCode) (cw : CmdWord) : (s.raise c cw).rc = s.rc := rfl
@[simp] theorem State.raise_kv (s : State) (c : FaultCode) (cw : CmdWord) : (s.raise c cw).kv = s.kv := rfl
@[simp] theorem State.raise_bv (s : State) (c : FaultCode) (cw : CmdWord) : (s.raise c cw).bv = s.bv := rfl
@[simp] theorem State.raise_busy (s : State) (c : FaultCode) (cw : CmdWord) : (s.raise c cw).busy = s.busy := rfl
@[simp] theorem State.raise_err (s : State) (c : FaultCode) (cw : CmdWord) : (s.raise c cw).err = c.code := rfl
@[simp] theorem State.raise_ecmd (s : State) (c : FaultCode) (cw : CmdWord) : (s.raise c cw).ecmd = cw := rfl
@[simp] theorem State.raise_rsp (s : State) (c : FaultCode) (cw : CmdWord) : (s.raise c cw).rsp = s.rsp := rfl
@[simp] theorem State.raise_input (s : State) (c : FaultCode) (cw : CmdWord) : (s.raise c cw).input = s.input := rfl
@[simp] theorem State.raise_freeCtr (s : State) (c : FaultCode) (cw : CmdWord) : (s.raise c cw).freeCtr = s.freeCtr := rfl

/-! A response (R41). -/

@[simp] theorem State.respond_key (s : State) (v : CmdWord) : (s.respond v).key = s.key := rfl
@[simp] theorem State.respond_sk (s : State) (v : CmdWord) : (s.respond v).sk = s.sk := rfl
@[simp] theorem State.respond_blk (s : State) (v : CmdWord) : (s.respond v).blk = s.blk := rfl
@[simp] theorem State.respond_l (s : State) (v : CmdWord) : (s.respond v).l = s.l := rfl
@[simp] theorem State.respond_r (s : State) (v : CmdWord) : (s.respond v).r = s.r := rfl
@[simp] theorem State.respond_dsr (s : State) (v : CmdWord) : (s.respond v).dsr = s.dsr := rfl
@[simp] theorem State.respond_dcnt (s : State) (v : CmdWord) : (s.respond v).dcnt = s.dcnt := rfl
@[simp] theorem State.respond_ssr (s : State) (v : CmdWord) : (s.respond v).ssr = s.ssr := rfl
@[simp] theorem State.respond_scnt (s : State) (v : CmdWord) : (s.respond v).scnt = s.scnt := rfl
@[simp] theorem State.respond_dir (s : State) (v : CmdWord) : (s.respond v).dir = s.dir := rfl
@[simp] theorem State.respond_rc (s : State) (v : CmdWord) : (s.respond v).rc = s.rc := rfl
@[simp] theorem State.respond_kv (s : State) (v : CmdWord) : (s.respond v).kv = s.kv := rfl
@[simp] theorem State.respond_bv (s : State) (v : CmdWord) : (s.respond v).bv = s.bv := rfl
@[simp] theorem State.respond_busy (s : State) (v : CmdWord) : (s.respond v).busy = s.busy := rfl
@[simp] theorem State.respond_err (s : State) (v : CmdWord) : (s.respond v).err = s.err := rfl
@[simp] theorem State.respond_ecmd (s : State) (v : CmdWord) : (s.respond v).ecmd = s.ecmd := rfl
@[simp] theorem State.respond_rsp (s : State) (v : CmdWord) : (s.respond v).rsp = some v := rfl
@[simp] theorem State.respond_input (s : State) (v : CmdWord) : (s.respond v).input = s.input := rfl
@[simp] theorem State.respond_freeCtr (s : State) (v : CmdWord) : (s.respond v).freeCtr = s.freeCtr := rfl

/-! The start of a clock edge (R40). -/

@[simp] theorem State.beginEdge_key (s : State) (rest : List PortEvent) : (s.beginEdge rest).key = s.key := rfl
@[simp] theorem State.beginEdge_sk (s : State) (rest : List PortEvent) : (s.beginEdge rest).sk = s.sk := rfl
@[simp] theorem State.beginEdge_blk (s : State) (rest : List PortEvent) : (s.beginEdge rest).blk = s.blk := rfl
@[simp] theorem State.beginEdge_l (s : State) (rest : List PortEvent) : (s.beginEdge rest).l = s.l := rfl
@[simp] theorem State.beginEdge_r (s : State) (rest : List PortEvent) : (s.beginEdge rest).r = s.r := rfl
@[simp] theorem State.beginEdge_dsr (s : State) (rest : List PortEvent) : (s.beginEdge rest).dsr = s.dsr := rfl
@[simp] theorem State.beginEdge_dcnt (s : State) (rest : List PortEvent) : (s.beginEdge rest).dcnt = s.dcnt := rfl
@[simp] theorem State.beginEdge_ssr (s : State) (rest : List PortEvent) : (s.beginEdge rest).ssr = s.ssr := rfl
@[simp] theorem State.beginEdge_scnt (s : State) (rest : List PortEvent) : (s.beginEdge rest).scnt = s.scnt := rfl
@[simp] theorem State.beginEdge_dir (s : State) (rest : List PortEvent) : (s.beginEdge rest).dir = s.dir := rfl
@[simp] theorem State.beginEdge_rc (s : State) (rest : List PortEvent) : (s.beginEdge rest).rc = s.rc := rfl
@[simp] theorem State.beginEdge_kv (s : State) (rest : List PortEvent) : (s.beginEdge rest).kv = s.kv := rfl
@[simp] theorem State.beginEdge_bv (s : State) (rest : List PortEvent) : (s.beginEdge rest).bv = s.bv := rfl
@[simp] theorem State.beginEdge_busy (s : State) (rest : List PortEvent) : (s.beginEdge rest).busy = s.busy := rfl
@[simp] theorem State.beginEdge_err (s : State) (rest : List PortEvent) : (s.beginEdge rest).err = s.err := rfl
@[simp] theorem State.beginEdge_ecmd (s : State) (rest : List PortEvent) : (s.beginEdge rest).ecmd = s.ecmd := rfl
@[simp] theorem State.beginEdge_rsp (s : State) (rest : List PortEvent) : (s.beginEdge rest).rsp = none := rfl
@[simp] theorem State.beginEdge_input (s : State) (rest : List PortEvent) : (s.beginEdge rest).input = rest := rfl
@[simp] theorem State.beginEdge_freeCtr (s : State) (rest : List PortEvent) : (s.beginEdge rest).freeCtr = s.freeCtr := rfl

/-! The writes of INIT and of a reset step (R50). -/

@[simp] theorem State.resetRegs_key (s : State) : (s.resetRegs).key = Config.freeKey s.freeCtr := rfl
@[simp] theorem State.resetRegs_sk (s : State) : (s.resetRegs).sk = Config.freeSubkeys s.freeCtr := rfl
@[simp] theorem State.resetRegs_blk (s : State) : (s.resetRegs).blk = Config.freeBlk s.freeCtr := rfl
@[simp] theorem State.resetRegs_l (s : State) : (s.resetRegs).l = Config.freeL s.freeCtr := rfl
@[simp] theorem State.resetRegs_r (s : State) : (s.resetRegs).r = Config.freeR s.freeCtr := rfl
@[simp] theorem State.resetRegs_dsr (s : State) : (s.resetRegs).dsr = Config.freeDsr s.freeCtr := rfl
@[simp] theorem State.resetRegs_dcnt (s : State) : (s.resetRegs).dcnt = 0 := rfl
@[simp] theorem State.resetRegs_ssr (s : State) : (s.resetRegs).ssr = Config.freeSsr s.freeCtr := rfl
@[simp] theorem State.resetRegs_scnt (s : State) : (s.resetRegs).scnt = 0 := rfl
@[simp] theorem State.resetRegs_dir (s : State) : (s.resetRegs).dir = .enc := rfl
@[simp] theorem State.resetRegs_rc (s : State) : (s.resetRegs).rc = 0 := rfl
@[simp] theorem State.resetRegs_kv (s : State) : (s.resetRegs).kv = false := rfl
@[simp] theorem State.resetRegs_bv (s : State) : (s.resetRegs).bv = false := rfl
@[simp] theorem State.resetRegs_busy (s : State) : (s.resetRegs).busy = false := rfl
@[simp] theorem State.resetRegs_err (s : State) : (s.resetRegs).err = 0 := rfl
@[simp] theorem State.resetRegs_ecmd (s : State) : (s.resetRegs).ecmd = 0 := rfl
@[simp] theorem State.resetRegs_rsp (s : State) : (s.resetRegs).rsp = s.rsp := rfl
@[simp] theorem State.resetRegs_input (s : State) : (s.resetRegs).input = s.input := rfl
@[simp] theorem State.resetRegs_freeCtr (s : State) : (s.resetRegs).freeCtr = s.freeCtr + 1 := rfl

/-! The writes of ENC and DEC (R174, R175). -/

@[simp] theorem State.startTransform_key (s : State) (d : Direction) : (s.startTransform d).key = s.key := rfl
@[simp] theorem State.startTransform_sk (s : State) (d : Direction) : (s.startTransform d).sk = s.sk := rfl
@[simp] theorem State.startTransform_blk (s : State) (d : Direction) : (s.startTransform d).blk = s.blk := rfl
@[simp] theorem State.startTransform_l (s : State) (d : Direction) : (s.startTransform d).l = (entryHalves s.blk).1 := rfl
@[simp] theorem State.startTransform_r (s : State) (d : Direction) : (s.startTransform d).r = (entryHalves s.blk).2 := rfl
@[simp] theorem State.startTransform_dsr (s : State) (d : Direction) : (s.startTransform d).dsr = s.dsr := rfl
@[simp] theorem State.startTransform_dcnt (s : State) (d : Direction) : (s.startTransform d).dcnt = s.dcnt := rfl
@[simp] theorem State.startTransform_ssr (s : State) (d : Direction) : (s.startTransform d).ssr = s.ssr := rfl
@[simp] theorem State.startTransform_scnt (s : State) (d : Direction) : (s.startTransform d).scnt = s.scnt := rfl
@[simp] theorem State.startTransform_dir (s : State) (d : Direction) : (s.startTransform d).dir = d := rfl
@[simp] theorem State.startTransform_rc (s : State) (d : Direction) : (s.startTransform d).rc = 0 := rfl
@[simp] theorem State.startTransform_kv (s : State) (d : Direction) : (s.startTransform d).kv = s.kv := rfl
@[simp] theorem State.startTransform_bv (s : State) (d : Direction) : (s.startTransform d).bv = s.bv := rfl
@[simp] theorem State.startTransform_busy (s : State) (d : Direction) : (s.startTransform d).busy = true := rfl
@[simp] theorem State.startTransform_err (s : State) (d : Direction) : (s.startTransform d).err = s.err := rfl
@[simp] theorem State.startTransform_ecmd (s : State) (d : Direction) : (s.startTransform d).ecmd = s.ecmd := rfl
@[simp] theorem State.startTransform_rsp (s : State) (d : Direction) : (s.startTransform d).rsp = s.rsp := rfl
@[simp] theorem State.startTransform_input (s : State) (d : Direction) : (s.startTransform d).input = s.input := rfl
@[simp] theorem State.startTransform_freeCtr (s : State) (d : Direction) : (s.startTransform d).freeCtr = s.freeCtr := rfl

/-! ROUND (R176). -/

@[simp] theorem engineRound_key (s : State) (t : Tables) : (engineRound t s).key = s.key := rfl
@[simp] theorem engineRound_sk (s : State) (t : Tables) : (engineRound t s).sk = s.sk := rfl
@[simp] theorem engineRound_blk (s : State) (t : Tables) : (engineRound t s).blk = s.blk := rfl
@[simp] theorem engineRound_l (s : State) (t : Tables) : (engineRound t s).l = s.r := rfl
@[simp] theorem engineRound_r (s : State) (t : Tables) : (engineRound t s).r = s.l ^^^ roundFunction t s.r (s.sk.get (roundIndex s.dir s.rc.toNat)) := rfl
@[simp] theorem engineRound_dsr (s : State) (t : Tables) : (engineRound t s).dsr = s.dsr := rfl
@[simp] theorem engineRound_dcnt (s : State) (t : Tables) : (engineRound t s).dcnt = s.dcnt := rfl
@[simp] theorem engineRound_ssr (s : State) (t : Tables) : (engineRound t s).ssr = s.ssr := rfl
@[simp] theorem engineRound_scnt (s : State) (t : Tables) : (engineRound t s).scnt = s.scnt := rfl
@[simp] theorem engineRound_dir (s : State) (t : Tables) : (engineRound t s).dir = s.dir := rfl
@[simp] theorem engineRound_rc (s : State) (t : Tables) : (engineRound t s).rc = s.rc + 1 := rfl
@[simp] theorem engineRound_kv (s : State) (t : Tables) : (engineRound t s).kv = s.kv := rfl
@[simp] theorem engineRound_bv (s : State) (t : Tables) : (engineRound t s).bv = s.bv := rfl
@[simp] theorem engineRound_busy (s : State) (t : Tables) : (engineRound t s).busy = s.busy := rfl
@[simp] theorem engineRound_err (s : State) (t : Tables) : (engineRound t s).err = s.err := rfl
@[simp] theorem engineRound_ecmd (s : State) (t : Tables) : (engineRound t s).ecmd = s.ecmd := rfl
@[simp] theorem engineRound_rsp (s : State) (t : Tables) : (engineRound t s).rsp = s.rsp := rfl
@[simp] theorem engineRound_input (s : State) (t : Tables) : (engineRound t s).input = s.input := rfl
@[simp] theorem engineRound_freeCtr (s : State) (t : Tables) : (engineRound t s).freeCtr = s.freeCtr := rfl

/-! FINAL (R177). -/

@[simp] theorem engineFinal_key (s : State) : (engineFinal s).key = s.key := rfl
@[simp] theorem engineFinal_sk (s : State) : (engineFinal s).sk = s.sk := rfl
@[simp] theorem engineFinal_blk (s : State) : (engineFinal s).blk = exitBlock (s.l, s.r) := rfl
@[simp] theorem engineFinal_l (s : State) : (engineFinal s).l = s.l := rfl
@[simp] theorem engineFinal_r (s : State) : (engineFinal s).r = s.r := rfl
@[simp] theorem engineFinal_dsr (s : State) : (engineFinal s).dsr = s.dsr := rfl
@[simp] theorem engineFinal_dcnt (s : State) : (engineFinal s).dcnt = s.dcnt := rfl
@[simp] theorem engineFinal_ssr (s : State) : (engineFinal s).ssr = s.ssr := rfl
@[simp] theorem engineFinal_scnt (s : State) : (engineFinal s).scnt = s.scnt := rfl
@[simp] theorem engineFinal_dir (s : State) : (engineFinal s).dir = s.dir := rfl
@[simp] theorem engineFinal_rc (s : State) : (engineFinal s).rc = s.rc := rfl
@[simp] theorem engineFinal_kv (s : State) : (engineFinal s).kv = s.kv := rfl
@[simp] theorem engineFinal_bv (s : State) : (engineFinal s).bv = s.bv := rfl
@[simp] theorem engineFinal_busy (s : State) : (engineFinal s).busy = false := rfl
@[simp] theorem engineFinal_err (s : State) : (engineFinal s).err = s.err := rfl
@[simp] theorem engineFinal_ecmd (s : State) : (engineFinal s).ecmd = s.ecmd := rfl
@[simp] theorem engineFinal_rsp (s : State) : (engineFinal s).rsp = s.rsp := rfl
@[simp] theorem engineFinal_input (s : State) : (engineFinal s).input = s.input := rfl
@[simp] theorem engineFinal_freeCtr (s : State) : (engineFinal s).freeCtr = s.freeCtr := rfl

/-! The big step of a transform (R178). -/

@[simp] theorem State.wholeTransform_key (s : State) (t : Tables) (d : Direction) : (s.wholeTransform t d).key = s.key := rfl
@[simp] theorem State.wholeTransform_sk (s : State) (t : Tables) (d : Direction) : (s.wholeTransform t d).sk = s.sk := rfl
@[simp] theorem State.wholeTransform_blk (s : State) (t : Tables) (d : Direction) : (s.wholeTransform t d).blk = blockTransform t s.blk s.sk d := rfl
@[simp] theorem State.wholeTransform_l (s : State) (t : Tables) (d : Direction) : (s.wholeTransform t d).l = (feistelRounds t s.sk d 16 (entryHalves s.blk)).1 := rfl
@[simp] theorem State.wholeTransform_r (s : State) (t : Tables) (d : Direction) : (s.wholeTransform t d).r = (feistelRounds t s.sk d 16 (entryHalves s.blk)).2 := rfl
@[simp] theorem State.wholeTransform_dsr (s : State) (t : Tables) (d : Direction) : (s.wholeTransform t d).dsr = s.dsr := rfl
@[simp] theorem State.wholeTransform_dcnt (s : State) (t : Tables) (d : Direction) : (s.wholeTransform t d).dcnt = s.dcnt := rfl
@[simp] theorem State.wholeTransform_ssr (s : State) (t : Tables) (d : Direction) : (s.wholeTransform t d).ssr = s.ssr := rfl
@[simp] theorem State.wholeTransform_scnt (s : State) (t : Tables) (d : Direction) : (s.wholeTransform t d).scnt = s.scnt := rfl
@[simp] theorem State.wholeTransform_dir (s : State) (t : Tables) (d : Direction) : (s.wholeTransform t d).dir = d := rfl
@[simp] theorem State.wholeTransform_rc (s : State) (t : Tables) (d : Direction) : (s.wholeTransform t d).rc = 16 := rfl
@[simp] theorem State.wholeTransform_kv (s : State) (t : Tables) (d : Direction) : (s.wholeTransform t d).kv = s.kv := rfl
@[simp] theorem State.wholeTransform_bv (s : State) (t : Tables) (d : Direction) : (s.wholeTransform t d).bv = s.bv := rfl
@[simp] theorem State.wholeTransform_busy (s : State) (t : Tables) (d : Direction) : (s.wholeTransform t d).busy = s.busy := rfl
@[simp] theorem State.wholeTransform_err (s : State) (t : Tables) (d : Direction) : (s.wholeTransform t d).err = s.err := rfl
@[simp] theorem State.wholeTransform_ecmd (s : State) (t : Tables) (d : Direction) : (s.wholeTransform t d).ecmd = s.ecmd := rfl
@[simp] theorem State.wholeTransform_rsp (s : State) (t : Tables) (d : Direction) : (s.wholeTransform t d).rsp = s.rsp := rfl
@[simp] theorem State.wholeTransform_input (s : State) (t : Tables) (d : Direction) : (s.wholeTransform t d).input = s.input := rfl
@[simp] theorem State.wholeTransform_freeCtr (s : State) (t : Tables) (d : Direction) : (s.wholeTransform t d).freeCtr = s.freeCtr := rfl

/-! Presenting words (R305). -/

@[simp] theorem State.presentWords_key (s : State) (words : List CmdWord) : (s.presentWords words).key = s.key := rfl
@[simp] theorem State.presentWords_sk (s : State) (words : List CmdWord) : (s.presentWords words).sk = s.sk := rfl
@[simp] theorem State.presentWords_blk (s : State) (words : List CmdWord) : (s.presentWords words).blk = s.blk := rfl
@[simp] theorem State.presentWords_l (s : State) (words : List CmdWord) : (s.presentWords words).l = s.l := rfl
@[simp] theorem State.presentWords_r (s : State) (words : List CmdWord) : (s.presentWords words).r = s.r := rfl
@[simp] theorem State.presentWords_dsr (s : State) (words : List CmdWord) : (s.presentWords words).dsr = s.dsr := rfl
@[simp] theorem State.presentWords_dcnt (s : State) (words : List CmdWord) : (s.presentWords words).dcnt = s.dcnt := rfl
@[simp] theorem State.presentWords_ssr (s : State) (words : List CmdWord) : (s.presentWords words).ssr = s.ssr := rfl
@[simp] theorem State.presentWords_scnt (s : State) (words : List CmdWord) : (s.presentWords words).scnt = s.scnt := rfl
@[simp] theorem State.presentWords_dir (s : State) (words : List CmdWord) : (s.presentWords words).dir = s.dir := rfl
@[simp] theorem State.presentWords_rc (s : State) (words : List CmdWord) : (s.presentWords words).rc = s.rc := rfl
@[simp] theorem State.presentWords_kv (s : State) (words : List CmdWord) : (s.presentWords words).kv = s.kv := rfl
@[simp] theorem State.presentWords_bv (s : State) (words : List CmdWord) : (s.presentWords words).bv = s.bv := rfl
@[simp] theorem State.presentWords_busy (s : State) (words : List CmdWord) : (s.presentWords words).busy = s.busy := rfl
@[simp] theorem State.presentWords_err (s : State) (words : List CmdWord) : (s.presentWords words).err = s.err := rfl
@[simp] theorem State.presentWords_ecmd (s : State) (words : List CmdWord) : (s.presentWords words).ecmd = s.ecmd := rfl
@[simp] theorem State.presentWords_rsp (s : State) (words : List CmdWord) : (s.presentWords words).rsp = s.rsp := rfl
@[simp] theorem State.presentWords_input (s : State) (words : List CmdWord) : (s.presentWords words).input = s.input ++ words.map .cmd := rfl
@[simp] theorem State.presentWords_freeCtr (s : State) (words : List CmdWord) : (s.presentWords words).freeCtr = s.freeCtr := rfl

end Sys2Proof.Machine
end

