-- ==== Sys2Proof/Laws/Ops.lean ====
section
/-! SUPPORT. What each shared operation can do, once: the operating mode, the mode filters, fault entry, the meanings of the
commands with a precondition, the engine step and the clock edge. Proofs cite these and do not unfold the operations. -/

namespace Sys2Proof.Machine

/-! The operating mode (R280). -/

theorem State.mode_ready_iff (s : State) : s.mode = .ready ↔ s.busy = false ∧ s.err = 0 := by
  unfold State.mode; cases s.busy <;> simp

theorem State.mode_fault_iff (s : State) : s.mode = .fault ↔ s.busy = false ∧ s.err ≠ 0 := by
  unfold State.mode; cases s.busy <;> simp

theorem State.mode_busy_iff (s : State) : s.mode = .busy ↔ s.busy = true := by
  unfold State.mode; cases s.busy <;> simp; split <;> simp

/-! The mode filters (R81, R82, R262). -/

theorem State.inReady_of_ready {s : State} (h : s.mode = .ready) (run : State → StepOut) :
    s.inReady run = run s := by simp [State.inReady, h]

theorem State.inReady_of_not_ready {s : State} (h : s.mode ≠ .ready) (run : State → StepOut) :
    s.inReady run = .next s := by
  unfold State.inReady; cases hm : s.mode <;> simp_all

/-- All that a command of READY mode can do: run, or be dropped or held. -/
theorem State.inReady_cases {s t : State} {run : State → StepOut} (h : s.inReady run = .next t) :
    (s.mode = .ready ∧ run s = .next t) ∨ (s.mode ≠ .ready ∧ t = s) := by
  by_cases hm : s.mode = .ready
  · exact .inl ⟨hm, by rwa [State.inReady_of_ready hm] at h⟩
  · rw [State.inReady_of_not_ready hm] at h
    exact .inr ⟨hm, by injection h with h; exact h.symm⟩

theorem State.inReadyOrFault_of_not_busy {s : State} (h : s.busy = false) (run : State → StepOut) :
    s.inReadyOrFault run = run s := by
  have : s.mode ≠ .busy := fun hb => by simp [(State.mode_busy_iff s).1 hb] at h
  unfold State.inReadyOrFault; cases hm : s.mode <;> simp_all

theorem State.inReadyOrFault_of_busy {s : State} (h : s.busy = true) (run : State → StepOut) :
    s.inReadyOrFault run = .next s := by
  simp [State.inReadyOrFault, (State.mode_busy_iff s).2 h]

/-- All that NOP, STAT and INIT can do: run, or be held. -/
theorem State.inReadyOrFault_cases {s t : State} {run : State → StepOut} (h : s.inReadyOrFault run = .next t) :
    (s.busy = false ∧ run s = .next t) ∨ (s.busy = true ∧ t = s) := by
  cases hb : s.busy
  · exact .inl ⟨rfl, by rwa [State.inReadyOrFault_of_not_busy hb] at h⟩
  · rw [State.inReadyOrFault_of_busy hb] at h
    exact .inr ⟨rfl, by injection h with h; exact h.symm⟩

/-! Commands and faults (R250, R260). -/

/-- Every fault code is one of 1..5 (R250). -/
@[simp] theorem FaultCode.code_ne_zero (c : FaultCode) : c.code ≠ 0#4 := by cases c <;> decide

theorem FaultCode.code_le_five (c : FaultCode) : c.code.toNat ≤ 5 := by cases c <;> decide

/-- What a command does in READY mode once its preconditions hold: the state it writes. -/
def effectOf (i : Instr) (s : State) : State :=
  match i with
  | .nop => s
  | .dpush b => { s with dsr := (s.dsr <<< 8) ||| b.setWidth 64, dcnt := dcntAfterPush s.dcnt }
  | .ldblk => { s with blk := s.dsr, bv := true, dcnt := 0 }
  | .ldkey => { s with key := s.dsr, sk := deriveSubkeys s.dsr, kv := true, dcnt := 0 }
  | .enc => s.startTransform .enc
  | .dec => s.startTransform .dec
  | .unld => { s with ssr := s.blk, scnt := 8 }
  | .dpop => { s with ssr := s.ssr <<< 8, scnt := s.scnt - 1 }.respond ((blockByte s.ssr 0).setWidth 16)
  | .rdskLow i j => s.respond ((subkeyByte (subkeyAt s.sk i) j.toNat).setWidth 16)
  | .rdskHigh i j => s.respond ((subkeyByte (subkeyAt s.sk i) (4 + j.toNat)).setWidth 16)
  | .statLow sel => s.respond (if sel = 0 then s.status else s.ecmd)
  | .statRc => s.respond (s.rc.setWidth 16)
  | .init => s.resetRegs

/-- In READY mode a command either raises the fault its preconditions name, or has its whole effect. -/
theorem exec_ready_eq (i : Instr) {s : State} (h : s.mode = .ready) :
    exec i s = match faultOf i s with
      | some c => .next (s.raise c (encode i))
      | none => .next (effectOf i s) := by
  have hb : s.busy = false := ((State.mode_ready_iff s).1 h).1
  cases i
  case enc | dec =>
    cases hk : s.kv <;> cases hv : s.bv <;>
      simp [exec, execEnc, execDec, startTransform, State.inReady_of_ready h, faultOf, effectOf, raiseFault, hk, hv]
  case ldblk | ldkey =>
    by_cases hd : s.dcnt = 8#4 <;>
      simp [exec, execLdblk, execLdkey, State.inReady_of_ready h, faultOf, effectOf, raiseFault, hd]
  case unld =>
    cases hv : s.bv <;> simp [exec, execUnld, State.inReady_of_ready h, faultOf, effectOf, raiseFault, hv]
  case dpop =>
    by_cases hc : s.scnt = 0#4 <;> simp [exec, execDpop, State.inReady_of_ready h, faultOf, effectOf, raiseFault, hc]
  case rdskLow | rdskHigh =>
    cases hk : s.kv <;>
      simp [exec, execRdskLow, execRdskHigh, readSubkeyByte, State.inReady_of_ready h, faultOf, effectOf, raiseFault, hk]
  all_goals
    simp [exec, execNop, execDpush, execStatLow, execStatRc, execInit, State.inReady_of_ready h,
      State.inReadyOrFault_of_not_busy hb, faultOf, effectOf]

/-- In FAULT mode only NOP, STAT and INIT are executed (R262). -/
theorem exec_fault_eq (i : Instr) {s : State} (h : s.mode = .fault) :
    exec i s = .next (if runsInFaultMode i then effectOf i s else s) := by
  have hb : s.busy = false := ((State.mode_fault_iff s).1 h).1
  have hr : s.mode ≠ .ready := by simp [h]
  cases i <;>
    simp [exec, execNop, execDpush, execLdblk, execLdkey, execEnc, execDec, execUnld, execDpop, execRdskLow, execRdskHigh,
      execStatLow, execStatRc, execInit, startTransform, readSubkeyByte, State.inReady_of_not_ready hr,
      State.inReadyOrFault_of_not_busy hb, runsInFaultMode, effectOf]

/-- While `BUSY = 1` no command is accepted, and nothing of one happens (R81). -/
theorem exec_busy_eq (i : Instr) {s : State} (h : s.busy = true) : exec i s = .next s := by
  have hr : s.mode ≠ .ready := by simp [(State.mode_busy_iff s).2 h]
  cases i <;>
    simp [exec, execNop, execDpush, execLdblk, execLdkey, execEnc, execDec, execUnld, execDpop, execRdskLow, execRdskHigh,
      execStatLow, execStatRc, execInit, startTransform, readSubkeyByte, State.inReady_of_not_ready hr,
      State.inReadyOrFault_of_busy h]

/-- All that a command can do when it answers a next state: raise its fault, have its whole effect, or nothing. -/
theorem exec_cases {i : Instr} {s t : State} (h : exec i s = .next t) :
    (s.mode = .ready ∧ ∃ c, faultOf i s = some c ∧ t = s.raise c (encode i))
      ∨ (s.mode = .ready ∧ faultOf i s = none ∧ t = effectOf i s)
      ∨ (s.mode = .fault ∧ runsInFaultMode i = true ∧ t = effectOf i s)
      ∨ (s.mode ≠ .ready ∧ t = s) := by
  cases hm : s.mode
  · rw [exec_ready_eq i hm] at h
    cases hf : faultOf i s <;> simp_all
  · rw [exec_busy_eq i ((State.mode_busy_iff s).1 hm)] at h
    simp_all
  · rw [exec_fault_eq i hm] at h
    cases hr : runsInFaultMode i <;> simp_all

/-- A command never stops the model. -/
theorem exec_next (i : Instr) (s : State) : ∃ t, exec i s = .next t := by
  cases hm : s.mode
  · rw [exec_ready_eq i hm]; cases faultOf i s <;> exact ⟨_, rfl⟩
  · exact ⟨_, exec_busy_eq i ((State.mode_busy_iff s).1 hm)⟩
  · exact ⟨_, exec_fault_eq i hm⟩

/-- An illegal word: a fault in READY mode, dropped or held otherwise (R82, R90). -/
theorem illegalWordStep_eq (cw : CmdWord) (s : State) :
    illegalWordStep cw s = .next (if s.mode = .ready then s.raise .illegalCommand cw else s) := by
  by_cases h : s.mode = .ready
  · simp [illegalWordStep, State.inReady_of_ready h, h]
  · simp [illegalWordStep, State.inReady_of_not_ready h, h]

/-! The engine (R176 to R178). -/

theorem engineStep_of_lt (t : Tables) {s : State} (h : s.rc.toNat < 16) : engineStep t s = .next (engineRound t s) := by
  simp [engineStep, h]

theorem engineStep_of_eq (t : Tables) {s : State} (h : s.rc = 16) : engineStep t s = .next (engineFinal s) := by
  simp [engineStep, h]

/-- All that an engine step can do when it answers a next state. -/
theorem engineStep_cases {t : Tables} {s s' : State} (h : engineStep t s = .next s') :
    (s.rc.toNat < 16 ∧ s' = engineRound t s) ∨ (s.rc = 16 ∧ s' = engineFinal s) := by
  unfold engineStep at h
  split at h
  · next hlt => exact .inl ⟨hlt, by injection h with h; exact h.symm⟩
  · split at h
    · next heq =>
        refine .inr ⟨?_, by injection h with h; exact h.symm⟩
        exact BitVec.eq_of_toNat_eq heq
    · cases h

/-! The clock edge (R40, R81, R290). -/

theorem clockEdge_rst (t : Tables) {s : State} {rest : List PortEvent} (h : s.input = .rst :: rest) :
    clockEdge t s = .next (s.beginEdge rest).resetRegs := by simp [clockEdge, h, resetStep]

theorem clockEdge_cmd (t : Tables) {s : State} {cw : CmdWord} {rest : List PortEvent} (hb : s.busy = false)
    (h : s.input = .cmd cw :: rest) : clockEdge t s = acceptWord cw (s.beginEdge rest) := by simp [clockEdge, h, hb]

/-- What the host does after an edge at which the engine steps: a presented word is kept, an idle edge is over. -/
def inputAfterHold : List PortEvent → List PortEvent
  | .idle :: rest => rest
  | input => input

theorem clockEdge_busy (t : Tables) {s : State} (hb : s.busy = true) (h : s.input.head? ≠ some .rst) :
    clockEdge t s = engineStep t (s.beginEdge (inputAfterHold s.input)) := by
  unfold clockEdge
  cases hi : s.input with
  | nil => simp [hb, inputAfterHold]
  | cons e rest => cases e <;> simp_all [inputAfterHold]

theorem acceptWord_ok {cw : CmdWord} {i : Instr} (h : decode cw = .ok i) (s : State) : acceptWord cw s = exec i s := by
  simp [acceptWord, h]

theorem acceptWord_illegal {cw : CmdWord} {e : DecodeError} (h : decode cw = .error e) (s : State) :
    acceptWord cw s = illegalWordStep cw s := by simp [acceptWord, h]

/-- All that a clock edge can be: a reset step, an engine step, an accepted command, an accepted illegal word, or an edge
at which nothing is presented. -/
theorem clockEdge_cases {t : Tables} {s s' : State} (h : clockEdge t s = .next s') :
    (∃ rest, s.input = .rst :: rest ∧ s' = (s.beginEdge rest).resetRegs)
      ∨ (s.busy = true ∧ s.input.head? ≠ some .rst ∧ engineStep t (s.beginEdge (inputAfterHold s.input)) = .next s')
      ∨ (s.busy = false ∧ ∃ cw rest i, s.input = .cmd cw :: rest ∧ decode cw = .ok i
          ∧ exec i (s.beginEdge rest) = .next s')
      ∨ (s.busy = false ∧ ∃ cw rest e, s.input = .cmd cw :: rest ∧ decode cw = .error e
          ∧ illegalWordStep cw (s.beginEdge rest) = .next s')
      ∨ (s.busy = false ∧ ∃ rest, s' = s.beginEdge rest) := by
  cases hb : s.busy
  · cases hi : s.input with
    | nil =>
      simp only [clockEdge, hi, hb] at h
      injection h with h
      exact .inr (.inr (.inr (.inr ⟨rfl, [], h.symm⟩)))
    | cons e rest =>
      cases e with
      | cmd cw =>
        rw [clockEdge_cmd t hb hi] at h
        cases hd : decode cw with
        | ok i =>
          rw [acceptWord_ok hd] at h
          exact .inr (.inr (.inl ⟨rfl, cw, rest, i, rfl, hd, h⟩))
        | error e =>
          rw [acceptWord_illegal hd] at h
          exact .inr (.inr (.inr (.inl ⟨rfl, cw, rest, e, rfl, hd, h⟩)))
      | idle =>
        simp only [clockEdge, hi, hb] at h
        injection h with h
        exact .inr (.inr (.inr (.inr ⟨rfl, rest, h.symm⟩)))
      | rst =>
        rw [clockEdge_rst t hi] at h
        injection h with h
        exact .inl ⟨rest, rfl, h.symm⟩
  · by_cases hr : s.input.head? = some .rst
    · cases hi : s.input with
      | nil => simp [hi] at hr
      | cons e rest =>
        simp only [hi, List.head?_cons, Option.some.injEq] at hr
        subst hr
        rw [clockEdge_rst t hi] at h; simp_all
    · rw [clockEdge_busy t hb hr] at h; simp_all

end Sys2Proof.Machine
end

