-- ==== Sys2Proof/Laws/PerInstr.lean ====
section
/-! SUPPORT. One statement per command about its encoding: the family `TableRow`. -/

namespace Sys2Proof.Laws.TableRow

/-- The word of a command is selected by one row of the opcode table, the row of its own mnemonic (R84), and is none of the
illegal words of R90. -/
def Statement (i : Instr) : Prop :=
  (opcodeRows.filter fun row => row.selects (encode i)).map OpcodeRow.mnemonic = [mnemonicOf i]
    ∧ legalWord (encode i) = true

theorem nop : Statement .nop := ⟨rfl, rfl⟩

theorem dpush : ∀ b, Statement (.dpush b) := by unfold Statement; decide +kernel

theorem ldblk : Statement .ldblk := ⟨rfl, rfl⟩

theorem ldkey : Statement .ldkey := ⟨rfl, rfl⟩

theorem enc : Statement .enc := ⟨rfl, rfl⟩

theorem dec : Statement .dec := ⟨rfl, rfl⟩

theorem unld : Statement .unld := ⟨rfl, rfl⟩

theorem dpop : Statement .dpop := ⟨rfl, rfl⟩

theorem rdskLow : ∀ i j, Statement (.rdskLow i j) := by unfold Statement; decide +kernel

theorem rdskHigh : ∀ i j, Statement (.rdskHigh i j) := by unfold Statement; decide +kernel

theorem statLow : ∀ sel, Statement (.statLow sel) := by unfold Statement; decide +kernel

theorem statRc : Statement .statRc := ⟨rfl, rfl⟩

theorem init : Statement .init := ⟨rfl, rfl⟩

end Sys2Proof.Laws.TableRow
end

