-- ==== Sys2Proof/Laws/Run.lean ====
section
/-! SUPPORT. The laws of the codec's bits and halves, of the subkeys, and of sequences of steps: what one more step adds to a
row of commands, of engine steps or of clock edges. -/

namespace Sys2Proof.Machine

/-! Bits (R100 to R102, R122, R172). -/

/-- A pushed byte lies below, the old bits eight places up (R102). -/
theorem getLsbD_push (d : Block) (b : Byte) {i : Nat} (hi : i < 64) :
    ((d <<< 8) ||| b.setWidth 64).getLsbD i = if i < 8 then b.getLsbD i else d.getLsbD (i - 8) := by
  by_cases h : i < 8
  · simp [h, hi]
  · simp [h, hi, BitVec.getLsbD_of_ge b i (by omega)]; rfl

/-- The first byte after `k` bytes were shifted out is byte `k` (R62, R105). -/
theorem blockByte_shiftLeft (v : Block) {k : Nat} (hk : k < 8) : blockByte (v <<< (8 * k)) 0 = blockByte v k := by
  apply BitVec.eq_of_getLsbD_eq; intro i hi
  simp only [blockByte, BitVec.getLsbD_extractLsb', BitVec.getLsbD_shiftLeft, hi, decide_true, Bool.true_and]
  rw [decide_eq_true (by omega), decide_eq_false (by omega)]
  simp; congr 1; omega

@[simp] theorem highHalf_joinHalves (h l : Half) : highHalf (joinHalves h l) = h := by
  apply BitVec.eq_of_getLsbD_eq; intro i hi
  simp [highHalf, getLsbD_joinHalves, hi]

@[simp] theorem lowHalf_joinHalves (h l : Half) : lowHalf (joinHalves h l) = l := by
  apply BitVec.eq_of_getLsbD_eq; intro i hi
  simp [lowHalf, getLsbD_joinHalves, hi]

@[simp] theorem joinHalves_halves (b : Block) : joinHalves (highHalf b) (lowHalf b) = b := by
  apply BitVec.eq_of_getLsbD_eq; intro i hi
  simp only [highHalf, lowHalf, getLsbD_joinHalves, BitVec.getLsbD_extractLsb']
  split <;> simp [show i - 32 < 32 by omega, *]
  rw [Nat.add_sub_cancel' (by omega)]; rfl

theorem getLsbD_subkeyOf (key : Block) (i : Nat) {n : Nat} (hn : n < 48) :
    (subkeyOf key i).getLsbD n = key.getLsbD (i + n) := by simp [subkeyOf, hn]

/-! Sequences of steps (R178, R305). -/

/-- The engine steps of `n + 1` are those of `n` and one more. -/
theorem engineSteps_snoc (t : Tables) (n : Nat) {u v : State} (h : engineSteps t n u = .next v) :
    engineSteps t (n + 1) u = engineStep t v := by
  induction n generalizing u with
  | zero =>
    simp only [engineSteps, Host.Outcome.next.injEq] at h
    subst h
    simp only [engineSteps]
    cases engineStep t u <;> rfl
  | succ n ih =>
    rw [engineSteps] at h
    rw [engineSteps]
    cases hs : engineStep t u with
    | next w => rw [hs] at h; exact ih h
    | fault f => simp [hs] at h
    | refused f => simp [hs] at h

theorem execAll_cons {i : Instr} {s t : State} (is : List Instr) (h : exec i s = .next t) :
    execAll (i :: is) s = execAll is t := by simp [execAll, h]

theorem responsesOf_cons {i : Instr} {s t : State} (is : List Instr) (h : exec i { s with rsp := none } = .next t) :
    responsesOf (i :: is) s = t.rsp.toList ++ responsesOf is t := by simp [responsesOf, h]

theorem runToEnd_of_over (t : Tables) (fuel : Nat) {s : State} (h : s.runOver = true) :
    runToEnd t fuel s = some ⟨[], s⟩ := by cases fuel <;> simp [runToEnd, h]

theorem runToEnd_step (t : Tables) (fuel : Nat) {s u : State} (ho : s.runOver = false) (h : clockEdge t s = .next u) :
    runToEnd t (fuel + 1) s = (runToEnd t fuel u).map (RunResult.after u) := by simp [runToEnd, ho, h]

/-! Host calls (R242). -/

theorem callToEnd_of_over (t : Tables) (fuel : Nat) {s : State} (h : s.runOver = true) :
    callToEnd t fuel s = some (.done [] s) := by cases fuel <;> simp [callToEnd, h]

/-- A step after which `fault = 0` goes on with the call. -/
theorem callToEnd_step (t : Tables) (fuel : Nat) {s u : State} (ho : s.runOver = false) (h : clockEdge t s = .next u)
    (he : u.err = 0) : callToEnd t (fuel + 1) s = (callToEnd t fuel u).map (CallEnd.after u) := by
  simp [callToEnd, ho, h, State.faultPin, he]

/-- A step after which `fault = 1` ends the call. -/
theorem callToEnd_fault (t : Tables) (fuel : Nat) {s u : State} (ho : s.runOver = false) (h : clockEdge t s = .next u)
    (he : u.err ≠ 0) : callToEnd t (fuel + 1) s = some (.abandoned { u with input := [] }) := by
  have hp : u.faultPin = true := by simpa [State.faultPin, bne] using he
  simp [callToEnd, ho, h, hp]

end Sys2Proof.Machine
end

