-- ==== Sys2Proof/Tests/Slice0.lean ====
section
/-! SUPPORT. The model's own tests: each check of the well-formedness refused on an ill-formed term, words written out from the
spec's encodings, one or two single steps per command with the spec's expected values, and for each obligation with
hypotheses a state and operands that meet them. -/

namespace Sys2Proof.Tests

open Sys2Proof.Machine

/-! ### Helpers -/

/-- The next state of an outcome, if it is one. -/
def nextOf : StepOut → Option State
  | .next s => some s
  | .fault _ => none
  | .refused _ => none

/-- One field, or a few, of the next state. -/
def look {α : Type} (o : StepOut) (f : State → α) : Option α := (nextOf o).map f

/-- The key of vector K1 (95_test_vectors.md 2.2). -/
def k1 : Block := 0x0123456789ABCDEF

/-- A core in READY mode with the key K1 and the block of vector B8. -/
def loaded : State :=
  { State.reset with key := k1, sk := deriveSubkeys k1, kv := true, blk := 0x1122334455667788, bv := true }

/-- A core in READY mode with `n` bytes pushed. -/
def pushed (n : BitVec 4) (d : Block) : State := { State.reset with dcnt := n, dsr := d }

/-- A core with `n` bytes left in the serializer. -/
def unloaded (n : BitVec 4) (v : Block) : State := { loaded with scnt := n, ssr := v }

/-- The state of program P3 after its LDBLK: FAULT mode. -/
def faulted : State := { pushed 3 0x414243 with err := 1, ecmd := 0x2000 }

/-- A transform running, before the engine step that starts with the given `RC`. -/
def running (d : Direction) (rc : BitVec 5) (l r : Half) : State :=
  { loaded with dir := d, rc := rc, l := l, r := r, busy := true }

/-- A state with these events at the port. -/
def withInput (s : State) (input : List PortEvent) : State := { s with input := input }

theorem test_loaded_inv : loaded.Inv := by constructor <;> decide

theorem test_running_inv : (running .enc 0 0x11223344 0x55667788).Inv := by constructor <;> decide

theorem test_last_round_inv : (running .enc 16 0xB097D481 0x406C1D12).Inv := by constructor <;> decide

theorem test_faulted_inv : faulted.Inv := by constructor <;> decide

theorem test_reset_inv : State.reset.Inv := by constructor <;> decide

/-- What the host does next is no part of the invariant. -/
theorem inv_withInput {s : State} (h : s.Inv) (input : List PortEvent) : (withInput s input).Inv :=
  ⟨h.dcnt_le, h.scnt_le, h.rc_le, h.err_le, h.busy_kv, h.busy_bv, h.busy_err, h.err_ecmd, h.subkeys, h.idle_rc⟩

theorem test_modes : State.reset.mode = .ready ∧ loaded.mode = .ready ∧ faulted.mode = .fault
    ∧ (running .enc 0 0 0).mode = .busy := by decide

/-! ### Well-formedness: an ill-formed term for each check -/

/-- Each clause of R90 refuses a word, at the first value out of range. -/
theorem test_illegal_words : illegalWord 0xA000 = true ∧ illegalWord 0xF000 = true ∧ illegalWord 0x0001 = true
    ∧ illegalWord 0x2100 = true ∧ illegalWord 0x3001 = true ∧ illegalWord 0x5001 = true ∧ illegalWord 0x6100 = true
    ∧ illegalWord 0x9001 = true ∧ illegalWord 0x1100 = true ∧ illegalWord 0x4200 = true ∧ illegalWord 0x4001 = true
    ∧ illegalWord 0x7006 = true ∧ illegalWord 0x7FFF = true ∧ illegalWord 0x8300 = true ∧ illegalWord 0x8001 = true := by
  decide

/-- The last legal value beside each of them. -/
theorem test_legal_words : legalWord 0x9000 = true ∧ legalWord 0x10FF = true ∧ legalWord 0x4100 = true
    ∧ legalWord 0x7F05 = true ∧ legalWord 0x8200 = true := by decide

/-- The test configuration in the spec's own numbers. -/
def raw : RawTables := rawOf tcDes

theorem test_raw_wf : raw.wf = true := by decide +kernel

theorem test_etab_position_zero : { raw with etab := 0 :: raw.etab.tail }.etabOk = false := by decide +kernel

theorem test_etab_position_33 : { raw with etab := 33 :: raw.etab.tail }.etabOk = false := by decide +kernel

theorem test_etab_short : { raw with etab := raw.etab.tail }.etabOk = false := by decide +kernel

theorem test_ptab_position_33 : { raw with ptab := 33 :: raw.ptab.tail }.ptabOk = false := by decide +kernel

theorem test_ptab_long : { raw with ptab := 1 :: raw.ptab }.ptabOk = false := by decide +kernel

theorem test_sbox_three_tables : { raw with sbox := raw.sbox.tail }.sboxShapeOk = false := by decide

theorem test_sbox_entry_16 : { raw with sbox := raw.sbox.map fun (t : List (List Nat)) => t.map fun (r : List Nat) => 16 :: r.tail }.sboxEntriesOk = false := by
  decide

theorem test_ill_formed_tables_refused : tablesOf { raw with ptab := 0 :: raw.ptab.tail } = none
    ∧ tablesOf raw = some tcDes := by decide +kernel

/-! ### Decoding: words written out bit by bit (R80, R84) -/

theorem test_decode_nop : decode 0b0000000000000000 = .ok .nop := by rfl
theorem test_decode_dpush : decode 0b0001000001000101 = .ok (.dpush 0x45) := by rfl
theorem test_decode_ldblk : decode 0b0010000000000000 = .ok .ldblk := by rfl
theorem test_decode_ldkey : decode 0b0011000000000000 = .ok .ldkey := by rfl
theorem test_decode_enc : decode 0b0100000000000000 = .ok .enc := by rfl
theorem test_decode_dec : decode 0b0100000100000000 = .ok .dec := by rfl
theorem test_decode_unld : decode 0b0101000000000000 = .ok .unld := by rfl
theorem test_decode_dpop : decode 0b0110000000000000 = .ok .dpop := by rfl
theorem test_decode_rdsk_low : decode 0b0111111100000011 = .ok (.rdskLow 15 3) := by rfl
theorem test_decode_rdsk_high : decode 0b0111101000000101 = .ok (.rdskHigh 10 1) := by rfl
theorem test_decode_stat_low : decode 0b1000000100000000 = .ok (.statLow 1) := by rfl
theorem test_decode_stat_rc : decode 0b1000001000000000 = .ok .statRc := by rfl
theorem test_decode_init : decode 0b1001000000000000 = .ok .init := by rfl

/-- G8 to G13: the illegal words of the fault table. -/
theorem test_decode_illegal : [0xA000, 0x0001, 0x4200, 0x7006, 0x8300, 0x1100].map decode
    = List.replicate 6 (.error .illegalCommand) := by rfl

/-- A word placed for the next step is the word the step decodes. -/
theorem test_fetch_word : (State.reset.withFetchWord 16 0x1045).input = [.cmd 0x1045]
    ∧ decodeTableWord 16 0x7F05 = some (.rdskHigh 15 1) ∧ decodeTableWord 16 0x7F06 = none := by decide

/-! ### Single steps -/

/-- G21: NOP, here in FAULT mode. -/
theorem test_nop : look (exec .nop faulted) (fun t => (t.status, t.ecmd)) = some (0x1003, 0x2000) := by decide

/-- R102: the byte is shifted in at the bottom and counted. -/
theorem test_dpush : look (exec (.dpush 0x45) (pushed 2 0x0123)) (fun t => (t.dsr, t.dcnt)) = some (0x012345, 3) := by decide

/-- B12: the counter stays at 9. -/
theorem test_dpush_saturates : look (exec (.dpush 0) (pushed 9 0)) (fun t => t.dcnt) = some 9 := by decide

/-- B8: the eighth byte is in, LDBLK loads; STATUS is 0400. -/
theorem test_ldblk : look (exec .ldblk (pushed 8 0x1122334455667788)) (fun t => (t.blk, t.status))
    = some (0x1122334455667788, 0x0400) := by decide

/-- G15: seven bytes are too few; DCNT is unchanged. -/
theorem test_ldblk_short : look (exec .ldblk (pushed 7 0)) (fun t => (t.status, t.ecmd, t.bv)) = some (0x1007, 0x2000, false) := by
  decide

/-- K1: the second and the last subkey. -/
theorem test_ldkey : look (exec .ldkey (pushed 8 k1)) (fun t => (t.sk.get 1, t.sk.get 15, t.kv, t.dcnt))
    = some (0xA2B3C4D5E6F7, 0x02468ACF1357, true, 0) := by decide

/-- G16: nine bytes are too many. -/
theorem test_ldkey_long : look (exec .ldkey (pushed 9 0)) (fun t => (t.status, t.ecmd, t.kv)) = some (0x1009, 0x3000, false) := by
  decide

/-- T4: ENC accepted. -/
theorem test_enc : look (exec .enc loaded) (fun t => (t.l, t.r, t.rc, t.dir, t.busy))
    = some (0x11223344, 0x55667788, 0, .enc, true) := by decide

/-- G1: the key is checked first. -/
theorem test_enc_no_key : look (exec .enc State.reset) (fun t => (t.status, t.ecmd)) = some (0x3000, 0x4000) := by decide

/-- R175: DEC accepted. -/
theorem test_dec : look (exec .dec loaded) (fun t => (t.l, t.r, t.rc, t.dir, t.busy))
    = some (0x11223344, 0x55667788, 0, .dec, true) := by decide

/-- G3, for DEC: a key but no block. -/
theorem test_dec_no_block : look (exec .dec { loaded with bv := false }) (fun t => (t.status, t.ecmd)) = some (0x4800, 0x4100) := by
  decide

/-- B9, its first step. -/
theorem test_unld : look (exec .unld loaded) (fun t => (t.ssr, t.scnt)) = some (0x1122334455667788, 8) := by decide

/-- G4. -/
theorem test_unld_no_block : look (exec .unld { loaded with bv := false }) (fun t => (t.status, t.ecmd)) = some (0x4800, 0x5000) := by
  decide

/-- B9: the first DPOP responds 0011. -/
theorem test_dpop : look (exec .dpop (unloaded 8 0x1122334455667788)) (fun t => (t.rsp, t.ssr, t.scnt))
    = some (some 0x0011, 0x2233445566778800, 7) := by decide

/-- G6: the ninth DPOP. -/
theorem test_dpop_empty : look (exec .dpop (unloaded 0 0)) (fun t => (t.status, t.ecmd, t.rsp)) = some (0x5C00, 0x6000, none) := by
  decide

/-- K9: 7100 responds 00A2. -/
theorem test_rdsk_low : look (exec (.rdskLow 1 0) loaded) (fun t => t.rsp) = some (some 0x00A2) := by decide

/-- K10: no key, fault 3. -/
theorem test_rdsk_low_no_key : look (exec (.rdskLow 0 0) State.reset) (fun t => (t.status, t.ecmd, t.rsp))
    = some (0x3000, 0x7000, none) := by decide

/-- K9: 7F05 responds 0057. -/
theorem test_rdsk_high : look (exec (.rdskHigh 15 1) loaded) (fun t => t.rsp) = some (some 0x0057) := by decide

/-- K9: 7004 responds 00CD. -/
theorem test_rdsk_high_lane_4 : look (exec (.rdskHigh 0 0) loaded) (fun t => t.rsp) = some (some 0x00CD) := by decide

/-- P2: STAT 0 responds 0C00. -/
theorem test_stat_status : look (exec (.statLow 0) loaded) (fun t => t.rsp) = some (some 0x0C00) := by decide

/-- P3: STAT 1 responds 2000 in FAULT mode. -/
theorem test_stat_ecmd : look (exec (.statLow 1) faulted) (fun t => t.rsp) = some (some 0x2000) := by decide

/-- G23: STAT 2 responds 0010 after a transform. -/
theorem test_stat_rc : look (exec .statRc { loaded with rc := 16 }) (fun t => t.rsp) = some (some 0x0010) := by decide

/-- G20: INIT leaves FAULT mode. -/
theorem test_init : look (exec .init faulted) (fun t => (t.status, t.ecmd, t.mode)) = some (0x0000, 0x0000, .ready) := by decide

/-- G8: an illegal word in READY mode. -/
theorem test_illegal_word : look (acceptWord 0xA000 State.reset) (fun t => (t.status, t.ecmd)) = some (0x2000, 0xA000) := by decide

/-- P3: an illegal word in FAULT mode is dropped. -/
theorem test_illegal_word_dropped : look (acceptWord 0xA000 faulted) (fun t => (t.status, t.ecmd)) = some (0x1003, 0x2000) := by
  decide

/-- G18: DPUSH in FAULT mode is dropped. -/
theorem test_dpush_dropped : look (acceptWord 0x1055 faulted) (fun t => (t.dcnt, t.dsr)) = some (3, 0x414243) := by decide

/-! ### The round function, the engine, the transform (TC-DES) -/

/-- E3, E5. -/
theorem test_expand : expand tcDes 0x80000000 = 0x400000000001 ∧ expand tcDes 0x12345678 = 0x0A41A82AC3F0 := by decide +kernel

/-- S3, S4, S7, S8. -/
theorem test_substitute : substitute tcDes 0x800000000000 = 0x4FA7EFA7 ∧ substitute tcDes 0x040000000000 = 0x0FA7EFA7
    ∧ substitute tcDes 0x00000000003F = 0xEFA7EFAE ∧ substitute tcDes 0x6117BA866527 = 0x5C82FBC6 := by decide

/-- Q3, Q6. -/
theorem test_permute : permute tcDes 0x80000000 = 0x00800000 ∧ permute tcDes 0x5C82B597 = 0x234AA9BB := by decide +kernel

/-- F6. -/
theorem test_round_function : roundFunction tcDes 0xF0AAF0AA 0x1B02EFFC7072 = 0x317EA1B3 := by decide +kernel

/-- T4, the first round. -/
theorem test_round : look (engineStep tcDes (running .enc 0 0x11223344 0x55667788)) (fun t => (t.l, t.r, t.rc, t.busy))
    = some (0x55667788, 0xDC74B7A7, 1, true) := by decide +kernel

/-- T5, the first round: the direction mux takes subkey 15. -/
theorem test_round_dec : look (engineStep tcDes (running .dec 0 0x406C1D12 0xB097D481)) (fun t => (t.l, t.r, t.rc))
    = some (0xB097D481, 0x5B799B8D, 1) := by decide +kernel

/-- T4, FINAL. -/
theorem test_final : look (engineStep tcDes (running .enc 16 0xB097D481 0x406C1D12)) (fun t => (t.blk, t.busy, t.rc))
    = some (0x406C1D12B097D481, false, 16) := by decide

/-- T4 and T6. -/
theorem test_transform : blockTransform tcDes 0x1122334455667788 (deriveSubkeys k1) .enc = 0x406C1D12B097D481
    ∧ blockTransform tcDes 0x1122334455667788 (deriveSubkeys k1) .dec = 0x307E5A40507B7113 := by decide +kernel

/-- R143, R148: the named hypotheses hold of TC-DES. -/
theorem test_table_hypotheses : EtabDup16 tcDes ∧ PtabBijective tcDes := by unfold EtabDup16 PtabBijective; decide +kernel

/-! ### The port, the host, the assembler -/

/-- R81: a word is held while the engine steps; the engine step is taken. -/
theorem test_hold : look (clockEdge tcDes (withInput (running .enc 16 0 0) [.cmd 0x8000])) (fun t => (t.input, t.rsp, t.busy))
    = some ([.cmd 0x8000], none, false) := by decide

/-- R290: reset during a transform. -/
theorem test_reset_while_busy : look (clockEdge tcDes (withInput (running .enc 5 0 0) [.rst])) (fun t => (t.busy, t.kv, t.bv, t.rc))
    = some (false, false, false, 0) := by decide

/-- N1, P2 (padding), U1, U4. -/
theorem test_host_bytes : normalizeKey [0x6B, 0x65, 0x79] = [0x6B, 0x65, 0x79, 0, 0, 0, 0, 0]
    ∧ pad [0x41, 0x42, 0x43] = [0x41, 0x42, 0x43, 5, 5, 5, 5, 5] ∧ unpad [1, 2, 3, 0xC8] = [1, 2, 3, 0xC8]
    ∧ unpad [9, 9, 2] = [9] := by decide

/-- R242 (d): DPOP on an empty serializer ends the call there, and the INIT behind it is never presented (G5). -/
theorem test_call_abandoned : hostCall tcDes State.reset [.dpop, .init]
    = some (.abandoned { State.reset with err := 5, ecmd := 0x6000 }) := by decide

/-- R242 (d): the cause is read with STAT 0 and STAT 1 (P3). -/
theorem test_cause : readCause tcDes faulted = some (0x1003, 0x2000) := by decide

/-- H2. -/
theorem test_encrypt : (encrypt tcDes [0x41, 0x42, 0x43] [0x6B, 0x65, 0x79]).toOption
    = some [0xC5, 0x63, 0x27, 0xB1, 0x1A, 0x5A, 0x3E, 0xE2] := by decide +kernel

/-- P3: two of its lines, with a comment; an operand out of range; a comment alone. -/
theorem test_assembler : readLine "DPUSH 0x41        ; 1041".toList = .line (.dpush 0x41)
    ∧ readLine ".word 0xA000".toList = .line (.word 0xA000) ∧ (AsmLine.rdsk 15 5).words = some [0x7F05]
    ∧ (AsmLine.rdsk 15 6).words = none ∧ (AsmLine.dpush 256).words = none ∧ (AsmLine.stat 3).words = none
    ∧ readLine "; nothing".toList = .blank := by decide

/-! ### Witnesses: for each obligation with hypotheses, states and operands that meet them -/

theorem test_witness_illegal_words : illegalWord 0xA000 = true ∧ State.reset.mode = .ready := by decide

theorem test_witness_step_runs : (withInput loaded [.cmd 0x7F05]).busy = false
    ∧ (withInput loaded [.cmd 0x7F05]).input = .cmd 0x7F05 :: [] ∧ decode 0x7F05 = .ok (.rdskHigh 15 1) := ⟨rfl, rfl, rfl⟩

/-- BusyHoldsTheWord: a word, an idle event, nothing. -/
theorem test_witness_hold : (withInput (running .enc 0 0 0) [.cmd 0x5000]).busy = true
    ∧ (withInput (running .enc 0 0 0) [.cmd 0x5000]).input = .cmd 0x5000 :: []
    ∧ (withInput (running .dec 16 0 0) [.idle]).busy = true ∧ (withInput (running .dec 16 0 0) [.idle]).input = .idle :: []
    ∧ (running .enc 16 0 0).busy = true ∧ (running .enc 16 0 0).input = [] := by decide

theorem test_witness_quiet : State.reset.busy = false ∧ State.reset.input = []
    ∧ (withInput State.reset [.idle]).busy = false ∧ (withInput State.reset [.idle]).input = .idle :: [] := by decide

theorem test_witness_reset_step : (withInput (running .enc 5 0 0) [.rst, .cmd 0]).input = .rst :: [.cmd 0]
    ∧ ([.cmd 0] : List PortEvent).head? ≠ some .rst := by decide

/-- The clauses on BUSY mode: the port is closed. -/
theorem test_witness_busy_mode : (running .dec 7 1 2).mode = .busy ∧ (running .dec 7 1 2).cmdReady = false := by decide

theorem test_witness_nop : State.reset.mode = .ready ∧ faulted.mode = .fault ∧ cwOp 0x0001 = 0 ∧ (0x0001 : CmdWord) ≠ 0 := by decide

theorem test_witness_init : loaded.mode = .ready ∧ faulted.mode = .fault ∧ loaded.busy = false
    ∧ look (acceptWord 0x9000 faulted) State.mode = some .ready ∧ Mode.ready ≠ .fault := by decide

/-- DPUSH, LDBLK, LDKEY: READY mode with 8 bytes, with 7 and with 9. -/
theorem test_witness_chunk : (pushed 8 5).mode = .ready ∧ (pushed 8 5).dcnt = 8 ∧ (pushed 7 5).mode = .ready
    ∧ (pushed 7 5).dcnt ≠ 8 ∧ (pushed 9 5).mode = .ready ∧ (pushed 9 5).dcnt ≠ 8 := by decide

theorem test_witness_unld : loaded.mode = .ready ∧ loaded.bv = true ∧ State.reset.mode = .ready ∧ State.reset.bv = false := by decide

theorem test_witness_dpop : (unloaded 1 5).mode = .ready ∧ (unloaded 1 5).scnt ≠ 0 ∧ (unloaded 8 5).scnt ≠ 0
    ∧ (unloaded 0 5).mode = .ready ∧ (unloaded 0 5).scnt = 0 ∧ loaded.bv = true ∧ 0 ≤ 8 ∧ 7 < 8 ∧ 8 ≤ 8 := by decide

theorem test_witness_rdsk : loaded.mode = .ready ∧ loaded.kv = true ∧ State.reset.mode = .ready ∧ State.reset.kv = false
    ∧ faulted.mode = .fault ∧ cwOp 0x7006 = 0x7 ∧ 6 ≤ (cwImm 0x7006).toNat ∧ cwOp 0x7FFF = 0x7
    ∧ 6 ≤ (cwImm 0x7FFF).toNat := by decide

/-- ENC and DEC: everything loaded; no key; a key and no block. -/
theorem test_witness_start : loaded.mode = .ready ∧ loaded.kv = true ∧ loaded.bv = true ∧ State.reset.mode = .ready
    ∧ State.reset.kv = false ∧ { loaded with bv := false }.mode = .ready ∧ { loaded with bv := false }.kv = true
    ∧ { loaded with bv := false }.bv = false := by decide

theorem test_witness_stat : loaded.mode = .ready ∧ faulted.mode = .fault ∧ loaded.Inv ∧ faulted.Inv
    ∧ cwOp 0x8300 = 0x8 ∧ 3 ≤ (cwArg 0x8300).toNat ∧ cwOp 0x8001 = 0x8 ∧ cwImm 0x8001 ≠ 0 :=
  ⟨by decide, by decide, test_loaded_inv, test_faulted_inv, by decide, by decide, by decide, by decide⟩

/-- FaultsAreThoseListed, CommandsWriteOnlyTheirColumns: a command of each fault, and one without. -/
theorem test_witness_faults : State.reset.mode = .ready ∧ faultOf .ldblk State.reset = some .invalidBlockLength
    ∧ faultOf .enc State.reset = some .keyNotLoaded ∧ faultOf .unld State.reset = some .blockNotLoaded
    ∧ faultOf .dpop State.reset = some .serializerEmpty ∧ faultOf .nop State.reset = none
    ∧ loaded.mode = .ready ∧ faultOf .enc loaded = none := by decide

theorem test_witness_fault_entry : State.reset.mode = .ready
    ∧ acceptWord 0x2000 State.reset = .next { State.reset with err := 1, ecmd := 0x2000 }
    ∧ { State.reset with err := 1, ecmd := 0x2000 }.err ≠ 0 := ⟨by decide, rfl, by decide⟩

/-- FaultModeDropsOtherWords: a legal word, an illegal one, an executed one, and the ready port. -/
theorem test_witness_fault_mode : faulted.mode = .fault
    ∧ (∀ i, decode 0x1055 = .ok i → runsInFaultMode i = false) ∧ (∀ i, decode 0xA000 = .ok i → runsInFaultMode i = false)
    ∧ (0x8100 : CmdWord) ≠ 0x9000 ∧ acceptWord 0x8100 faulted = .next { faulted with rsp := some 0x2000 }
    ∧ faulted.rstPin = false := by
  refine ⟨by decide, fun i h => ?_, fun i h => ?_, by decide, rfl, by decide⟩
  · have e : decode 0x1055 = .ok (.dpush 0x55) := rfl
    rw [e] at h; injection h with h; subst h; rfl
  · have e : decode 0xA000 = .error .illegalCommand := rfl
    rw [e] at h; cases h

/-- ModesChangeAsListed: READY to BUSY, READY to FAULT, and FAULT to READY. -/
theorem test_witness_modes : (withInput loaded [.cmd 0x4000]).Inv ∧ (withInput loaded [.cmd 0x6000]).Inv
    ∧ (withInput faulted [.cmd 0x9000]).Inv
    ∧ (withInput loaded [.cmd 0x4000]).mode = .ready
    ∧ look (clockEdge tcDes (withInput loaded [.cmd 0x4000])) State.mode = some .busy
    ∧ (withInput loaded [.cmd 0x6000]).mode = .ready
    ∧ look (clockEdge tcDes (withInput loaded [.cmd 0x6000])) State.mode = some .fault
    ∧ (withInput faulted [.cmd 0x9000]).mode = .fault
    ∧ look (clockEdge tcDes (withInput faulted [.cmd 0x9000])) State.mode = some .ready := by
  refine ⟨inv_withInput test_loaded_inv _, inv_withInput test_loaded_inv _, inv_withInput test_faulted_inv _, ?_⟩
  decide

/-- ModesChangeAsListed: BUSY to BUSY and BUSY to READY. -/
theorem test_witness_modes_busy : (running .enc 0 0x11223344 0x55667788).Inv
    ∧ (running .enc 0 0x11223344 0x55667788).mode = .busy
    ∧ look (clockEdge tcDes (running .enc 0 0x11223344 0x55667788)) State.mode = some .busy
    ∧ (running .enc 16 0xB097D481 0x406C1D12).Inv ∧ (running .enc 16 0xB097D481 0x406C1D12).mode = .busy
    ∧ look (clockEdge tcDes (running .enc 16 0xB097D481 0x406C1D12)) State.mode = some .ready :=
  ⟨test_running_inv, by decide, by decide, test_last_round_inv, by decide, by decide⟩

theorem test_witness_columns : exec .nop loaded = .next loaded ∧ Instr.nop ≠ .ldkey ∧ Instr.nop ≠ .init
    ∧ responds .nop = false ∧ (loaded.mode ≠ .ready ∨ faultOf .nop loaded = none) := ⟨rfl, by decide, by decide, rfl, .inr rfl⟩

/-- RunningTransformWritesOnlyItsOwn, RoundStepIsOneFeistelRound, FinalStepJoinsTheHalves. -/
theorem test_witness_running : (running .enc 15 1 2).busy = true ∧ (running .enc 15 1 2).input.head? ≠ some .rst
    ∧ (running .enc 15 1 2).rc.toNat < 16 ∧ (15 : Fin 16).val = (running .enc 15 1 2).rc.toNat
    ∧ (running .dec 15 1 2).rc.toNat < 16 ∧ (0 : Fin 16).val = 15 - (running .dec 15 1 2).rc.toNat
    ∧ (running .enc 16 1 2).busy = true ∧ (running .enc 16 1 2).rc = 16
    ∧ look (clockEdge tcDes (running .enc 16 1 2)) State.blk = some 0x0000000200000001 := by decide

/-- ValidFlagsFallOnlyAtInit, ResponsesComeFromThreeCommands. -/
theorem test_witness_response : (withInput loaded [.cmd 0x8000]).input.head? ≠ some .rst
    ∧ (withInput loaded [.cmd 0x8000]).input.head? ≠ some (.cmd 0x9000) ∧ loaded.kv = true ∧ loaded.bv = true
    ∧ look (clockEdge tcDes (withInput loaded [.cmd 0x8000])) State.rsp = some (some 0x0C00) := by decide

theorem test_witness_chunk_lengths : ([] : List Byte).length ≠ 8 ∧ (List.replicate 7 (0 : Byte)).length ≠ 8
    ∧ (List.replicate 9 (0 : Byte)).length ≠ 8 := by decide

/-- BlockThenReadGivesTheBytes, EncDecReadsTheBytesBack. -/
theorem test_witness_block : loaded.mode = .ready ∧ loaded.dcnt = 0 ∧ loaded.kv = true ∧ loaded.bv = true ∧ loaded.input = [] := by
  decide

/-- TopKeyBitReachesNoSubkey: both ends of the range. -/
theorem test_witness_subkey_overlap : 0 < 15 ∧ 14 < 15 := by decide

/-- SubstituteLooksUpEachGroup: groups 0 and 7 of two words, rows 0 to 3. -/
theorem test_witness_substitute : (3 : Fin 4).val = 2 * ((0xFFFFFFFFFFFF : BitVec 48).getLsbD (47 - 6 * 0)).toNat
      + ((0xFFFFFFFFFFFF : BitVec 48).getLsbD (42 - 6 * 0)).toNat
    ∧ (15 : Fin 16).val = ((0xFFFFFFFFFFFF : BitVec 48).extractLsb' (43 - 6 * 0) 4).toNat
    ∧ (1 : Fin 4).val = 2 * ((0x000000000001 : BitVec 48).getLsbD (47 - 6 * 7)).toNat
      + ((0x000000000001 : BitVec 48).getLsbD (42 - 6 * 7)).toNat
    ∧ (0 : Fin 16).val = ((0x000000000001 : BitVec 48).extractLsb' (43 - 6 * 7) 4).toNat := by decide

/-- RoundFunctionSeesOnlyTheMix: F1 and F2 have the same mix. -/
theorem test_witness_mix : expand tcDes 0 ^^^ 0 = expand tcDes 0xFFFFFFFF ^^^ 0xFFFFFFFFFFFF := by decide +kernel

/-- SeventeenEngineStepsAreTheTransform, TransformTakesEighteenSteps: both directions, with a word held behind. -/
theorem test_witness_transform : loaded.mode = .ready ∧ loaded.kv = true ∧ loaded.bv = true
    ∧ (withInput loaded [.cmd 0x4000, .cmd 0x8000]).input = ([0x4000, 0x8000] : List CmdWord).map PortEvent.cmd
    ∧ (withInput loaded [.cmd 0x4100]).input = ([0x4100] : List CmdWord).map PortEvent.cmd := by decide

theorem test_witness_hold_lifts : (running .enc 16 0xB097D481 0x406C1D12).Inv ∧ (running .enc 16 0xB097D481 0x406C1D12).busy = true
    ∧ (running .enc 0 0x11223344 0x55667788).Inv ∧ (running .enc 0 0x11223344 0x55667788).busy = true :=
  ⟨test_last_round_inv, rfl, test_running_inv, rfl⟩

theorem test_witness_equal_subkeys : ∀ i j : Fin 16, (deriveSubkeys 0).get i = (deriveSubkeys 0).get j := by decide

/-- StepKeepsTheInvariant, StepNeverStops: a step of the core, a DPUSH, from a state with the invariant. -/
theorem test_witness_step : (withInput loaded [.cmd 0x1045]).Inv
    ∧ step (withInput loaded [.cmd 0x1045]) = .next { loaded with dsr := 0x45, dcnt := 1 } := by
  refine ⟨inv_withInput test_loaded_inv _, ?_⟩
  have hd : decode 0x1045 = .ok (.dpush 0x45) := rfl
  rw [step, clockEdge_cmd _ rfl rfl, acceptWord_ok hd, exec_ready_eq _ (by decide)]
  rfl

/-- UnspecifiedRegistersAreUnobservable: after reset, other data in every unspecified register. -/
theorem test_witness_agree : State.reset.Inv ∧ State.reset.Agree
    { State.reset with key := 1, blk := 2, l := 3, r := 4, dsr := 5, ssr := 6, sk := deriveSubkeys k1, freeCtr := 7 } := by
  refine ⟨test_reset_inv, ?_⟩
  constructor <;> decide

theorem test_witness_run : State.reset.Inv ∧ State.reset.busy = false ∧ State.reset.input = [] := ⟨test_reset_inv, rfl, rfl⟩

/-- NormalizeGivesEightBytes: lengths 0, 7, 8 and 9. -/
theorem test_witness_normalize : 8 ≤ (List.replicate 8 (1 : Byte)).length ∧ 8 ≤ (List.replicate 9 (1 : Byte)).length
    ∧ (List.replicate 7 (1 : Byte)).length < 8 ∧ ([] : List Byte).length < 8 := by decide

/-- UnpadLooksAtTheLastByte: U1 and U6 pass through; U2, U4 and U5 are cut; no value falls under both clauses. -/
theorem test_witness_unpad : 8 < (0xC8 : Byte).toNat ∧ 8 < (9 : Byte).toNat ∧ ([4, 4] : List Byte).length + 1 < (4 : Byte).toNat
    ∧ (0 : Byte).toNat ≤ 8 ∧ (0 : Byte).toNat ≤ ([5, 5] : List Byte).length + 1 ∧ (2 : Byte).toNat ≤ 8
    ∧ (3 : Byte).toNat ≤ ([3, 3] : List Byte).length + 1 := by decide

/-- CoreComputesEncrypt, CoreComputesDecrypt: an idle core in READY and in FAULT mode, and both kinds of length. -/
theorem test_witness_host_call : loaded.busy = false ∧ loaded.input = [] ∧ faulted.busy = false ∧ faulted.input = []
    ∧ ([1, 2, 3] : List Byte).length % 8 ≠ 0 ∧ (List.replicate 8 (1 : Byte)).length % 8 = 0
    ∧ ([] : List Byte).length % 8 = 0 := by decide

/-- HostCallStopsAtTheFirstFault: its hypotheses, in READY and in FAULT mode. -/
theorem test_witness_call : State.reset.Inv ∧ State.reset.input = [] ∧ faulted.Inv ∧ faulted.input = [] :=
  ⟨test_reset_inv, rfl, test_faulted_inv, rfl⟩

/-- AssemblerSpellsTheLegalWords: the first operand out of range, for each. -/
theorem test_witness_assembler : 256 ≤ 256 ∧ (16 ≤ 16 ∨ 6 ≤ 0) ∧ (16 ≤ 0 ∨ 6 ≤ 6) ∧ 3 ≤ 3 := by decide

end Sys2Proof.Tests
end

section
/-! PROOFS. Reasoning rules for single commands and for sequences of them: what a command does in READY mode once it is
known whether it faults, that no command reads the response port, and how sequences are put together. -/

namespace Sys2Proof.Machine

/-! One command in READY mode (R250, R260). -/

theorem exec_eq_effectOf {i : Instr} {s : State} (h : s.mode = .ready) (hf : faultOf i s = none) :
    exec i s = .next (effectOf i s) := by simp [exec_ready_eq i h, hf]

theorem exec_eq_raise {i : Instr} {s : State} {c : FaultCode} (h : s.mode = .ready) (hf : faultOf i s = some c) :
    exec i s = .next (s.raise c (encode i)) := by simp [exec_ready_eq i h, hf]

theorem State.cmdReady_of_busy {s : State} (h : s.mode = .busy) : s.cmdReady = false := by
  simp [State.cmdReady, (State.mode_busy_iff s).1 h]

/-! The response port is written and never read (R41). -/

theorem faultOf_setRsp (i : Instr) (s : State) (r : Option CmdWord) : faultOf i { s with rsp := r } = faultOf i s := by
  cases i <;> rfl

/-- A command's effect is the same but for the response port when that showed nothing before. -/
theorem effectOf_lowerRsp (i : Instr) (s : State) :
    ∃ r, effectOf i { s with rsp := none } = { effectOf i s with rsp := r } := by
  cases i <;> exact ⟨_, rfl⟩

theorem effectOf_rsp {i : Instr} (s : State) (h : responds i = false) : (effectOf i s).rsp = s.rsp := by
  cases i
  case dpop | rdskLow | rdskHigh | statLow | statRc => simp [responds] at h
  all_goals rfl

/-- A command does the same to every register whatever the response port showed before. -/
theorem exec_lowerRsp {i : Instr} {s t : State} (h : exec i s = .next t) :
    ∃ r, exec i { s with rsp := none } = .next { t with rsp := r } := by
  have hf : faultOf i { s with rsp := none } = faultOf i s := faultOf_setRsp i s none
  obtain ⟨r, hr⟩ := effectOf_lowerRsp i s
  cases hm : s.mode
  case busy =>
    have hb := (State.mode_busy_iff s).1 hm
    rw [exec_busy_eq i hb] at h
    cases h
    exact ⟨none, exec_busy_eq i hb⟩
  case fault =>
    rw [exec_fault_eq i hm] at h
    cases h
    rw [exec_fault_eq i (s := { s with rsp := none }) hm, hr]
    cases runsInFaultMode i
    · exact ⟨none, rfl⟩
    · exact ⟨r, rfl⟩
  case ready =>
    cases hc : faultOf i s with
    | none =>
      rw [exec_eq_effectOf hm hc] at h
      cases h
      exact ⟨r, by rw [exec_eq_effectOf (s := { s with rsp := none }) hm (hf.trans hc), hr]⟩
    | some c =>
      rw [exec_eq_raise hm hc] at h
      cases h
      exact ⟨none, exec_eq_raise (s := { s with rsp := none }) hm (hf.trans hc)⟩

theorem exec_rsp {i : Instr} {s t : State} (hr : responds i = false) (h : exec i s = .next t) : t.rsp = s.rsp := by
  obtain ⟨_, _, _, rfl⟩ | ⟨_, _, rfl⟩ | ⟨_, _, rfl⟩ | ⟨_, rfl⟩ := exec_cases h
  · rfl
  · exact effectOf_rsp s hr
  · exact effectOf_rsp s hr
  · rfl

/-! Sequences of commands (R70). -/

theorem execAll_append {is : List Instr} (js : List Instr) {s t : State} (h : execAll is s = .next t) :
    execAll (is ++ js) s = execAll js t := by
  induction is generalizing s with
  | nil => cases h; rfl
  | cons i is ih =>
    obtain ⟨u, hu⟩ := exec_next i s
    rw [execAll_cons is hu] at h
    rw [List.cons_append, execAll_cons _ hu, ih h]

theorem responsesOf_setRsp (is : List Instr) (s : State) (r : Option CmdWord) :
    responsesOf is { s with rsp := r } = responsesOf is s := by
  cases is <;> rfl

theorem responsesOf_append {is : List Instr} (js : List Instr) {s t : State} (h : execAll is s = .next t) :
    responsesOf (is ++ js) s = responsesOf is s ++ responsesOf js t := by
  induction is generalizing s with
  | nil => cases h; rfl
  | cons i is ih =>
    obtain ⟨u, hu⟩ := exec_next i s
    obtain ⟨r, hr⟩ := exec_lowerRsp hu
    rw [execAll_cons is hu] at h
    rw [List.cons_append, responsesOf_cons _ hr, responsesOf_cons _ hr, List.append_assoc]
    simp only [responsesOf_setRsp, ih h]

/-- A command of a sequence in READY mode that raises no fault: the sequence goes on from its effect. -/
theorem execAll_effectOf {i : Instr} (is : List Instr) {s : State} (h : s.mode = .ready) (hf : faultOf i s = none) :
    execAll (i :: is) s = execAll is (effectOf i s) :=
  execAll_cons is (exec_eq_effectOf h hf)

theorem responsesOf_effectOf {i : Instr} (is : List Instr) {s : State} (h : s.mode = .ready)
    (hf : faultOf i s = none) :
    responsesOf (i :: is) s = (effectOf i { s with rsp := none }).rsp.toList ++ responsesOf is (effectOf i s) := by
  have hf' : faultOf i { s with rsp := none } = none := by rw [faultOf_setRsp, hf]
  obtain ⟨r, hr⟩ := effectOf_lowerRsp i s
  rw [responsesOf_cons is (exec_eq_effectOf (s := { s with rsp := none }) h hf'), hr, responsesOf_setRsp]

theorem responsesOf_eq_nil {is : List Instr} (s : State) (h : ∀ i ∈ is, responds i = false) :
    responsesOf is s = [] := by
  induction is generalizing s with
  | nil => rfl
  | cons i is ih =>
    obtain ⟨hi, his⟩ := List.forall_mem_cons.1 h
    obtain ⟨t, ht⟩ := exec_next i { s with rsp := none }
    rw [responsesOf_cons _ ht, exec_rsp hi ht, ih t his]
    rfl

end Sys2Proof.Machine
end

section
/-! PROOFS. The Bit-Block Codec (40_codec.md): bytes and blocks, runs of DPUSH and runs of DPOP, and the statements
about them. -/

namespace Sys2Proof.Machine

/-! Bytes and blocks (R100, R101). -/

theorem bytesToBlock_blockByte (v : Block) :
    bytesToBlock (blockByte v 0) (blockByte v 1) (blockByte v 2) (blockByte v 3) (blockByte v 4) (blockByte v 5)
      (blockByte v 6) (blockByte v 7) = v := by
  refine BitVec.eq_of_getLsbD_eq fun i hi => ?_
  have hbyte : ∀ k ≤ 7, 56 - 8 * k ≤ i → i < 64 - 8 * k → (blockByte v k).getLsbD (i - (56 - 8 * k)) = v.getLsbD i := by
    intro k hk hlo hhi
    rw [blockByte, BitVec.getLsbD_extractLsb', Nat.add_sub_cancel' hlo, decide_eq_true (by omega), Bool.true_and]
  rw [getLsbD_bytesToBlock]
  split_ifs
  · exact hbyte 7 (by omega) (by omega) (by omega)
  · exact hbyte 6 (by omega) (by omega) (by omega)
  · exact hbyte 5 (by omega) (by omega) (by omega)
  · exact hbyte 4 (by omega) (by omega) (by omega)
  · exact hbyte 3 (by omega) (by omega) (by omega)
  · exact hbyte 2 (by omega) (by omega) (by omega)
  · exact hbyte 1 (by omega) (by omega) (by omega)
  · exact hbyte 0 (by omega) (by omega) (by omega)

theorem blockToBytes_bytesToBlock (b0 b1 b2 b3 b4 b5 b6 b7 : Byte) :
    blockToBytes (bytesToBlock b0 b1 b2 b3 b4 b5 b6 b7) = [b0, b1, b2, b3, b4, b5, b6, b7] := by
  simp only [blockToBytes, List.cons.injEq, and_true]
  refine ⟨?_, ?_, ?_, ?_, ?_, ?_, ?_, ?_⟩ <;>
  · refine BitVec.eq_of_getLsbD_eq fun i hi => ?_
    rw [blockByte, BitVec.getLsbD_extractLsb', getLsbD_bytesToBlock, decide_eq_true hi, Bool.true_and]
    simp (disch := omega) only [if_pos, if_neg, Nat.add_sub_cancel_left, Nat.zero_add, Nat.mul_zero, Nat.reduceMul,
      Nat.reduceSub]

/-- The bytes of a block as a map over their places. -/
theorem blockToBytes_eq_map_range (v : Block) : blockToBytes v = (List.range 8).map (blockByte v) := rfl

theorem packChunk_error {bytes : List Byte} (h : bytes.length ≠ 8) :
    packChunk bytes = .error .invalidBlockLength := by
  unfold packChunk
  split
  · exact absurd rfl h
  · rfl

/-- Settles O30: the bits of a packed chunk are those of its bytes, read at their places. -/
theorem codecRoundTrip : Obligations.CodecRoundTrip :=
  ⟨fun b0 b1 b2 b3 b4 b5 b6 b7 => ⟨rfl, blockToBytes_bytesToBlock b0 b1 b2 b3 b4 b5 b6 b7⟩,
    fun v => ⟨rfl, congrArg Except.ok (bytesToBlock_blockByte v)⟩,
    fun _ => packChunk_error⟩

/-! DPUSH (R102). -/

theorem encode_dpush (b : Byte) : encode (.dpush b) = 0x1000#16 ||| b.setWidth 16 := by
  have hop : 0x1000#16 = assembleWord 1 0 0 := rfl
  refine BitVec.eq_of_getLsbD_eq fun i hi => ?_
  rw [encode, hop, BitVec.getLsbD_or, getLsbD_assembleWord, getLsbD_assembleWord, BitVec.getLsbD_setWidth]
  split_ifs
  · simp [hi]
  all_goals simp [BitVec.getLsbD_of_ge b i (by omega)]

/-- Settles O12, by the effect of DPUSH, which has no precondition. -/
theorem dpushShiftsTheByteIn : Obligations.DpushShiftsTheByteIn :=
  fun b => ⟨encode_dpush b, fun _ h => exec_eq_effectOf h rfl⟩

@[simp] theorem toNat_dcntAfterPush (c : BitVec 4) : (dcntAfterPush c).toNat = min (c.toNat + 1) 9 := by
  rw [dcntAfterPush, BitVec.toNat_ofNat]
  omega

/-- `DSR` after these bytes were pushed into it one after the other (R102). -/
def pushBytes (d : Block) (bytes : List Byte) : Block := bytes.foldl (fun d b => (d <<< 8) ||| b.setWidth 64) d

theorem pushBytes_eight (d : Block) (b0 b1 b2 b3 b4 b5 b6 b7 : Byte) :
    pushBytes d [b0, b1, b2, b3, b4, b5, b6, b7] = bytesToBlock b0 b1 b2 b3 b4 b5 b6 b7 := by
  refine BitVec.eq_of_getLsbD_eq fun i hi => ?_
  have hlt : ∀ k, i - k < 8 ↔ i < k + 8 := by omega
  simp (disch := omega) only [pushBytes, List.foldl, getLsbD_push, getLsbD_bytesToBlock, Nat.sub_sub, hlt,
    Nat.reduceAdd, if_pos hi]

/-- A run of pushes: the bytes go into `DSR` and are counted up to 9, and nothing else changes. -/
theorem execAll_dpush (bytes : List Byte) {s : State} (h : s.mode = .ready) (hc : s.dcnt.toNat ≤ 9) :
    execAll (bytes.map .dpush) s = .next { s with
      dsr := pushBytes s.dsr bytes
      dcnt := BitVec.ofNat 4 (min (s.dcnt.toNat + bytes.length) 9) } := by
  induction bytes generalizing s with
  | nil => simp [execAll, pushBytes, Nat.min_eq_left hc]
  | cons b bytes ih =>
    have hcount : min (min (s.dcnt.toNat + 1) 9 + bytes.length) 9 = min (s.dcnt.toNat + (bytes.length + 1)) 9 := by
      omega
    rw [List.map_cons, execAll_effectOf _ h rfl, ih (s := effectOf (.dpush b) s) h (by simp [effectOf])]
    simp [effectOf, pushBytes, hcount]

/-! LDBLK (R103). -/

theorem faultOf_ldblk {s : State} (hc : s.dcnt = 8) : faultOf .ldblk s = none := if_pos hc

/-- Settles O13, by the one precondition of LDBLK. -/
theorem ldblkLoadsTheChunk : Obligations.LdblkLoadsTheChunk :=
  ⟨rfl, fun _ h hc => exec_eq_effectOf h (faultOf_ldblk hc),
    fun _ h hc => exec_eq_raise (i := .ldblk) (c := .invalidBlockLength) h (if_neg hc)⟩

/-- BLOCK loads the packed bytes (R106). -/
theorem execAll_blockCmds {s : State} (h : s.mode = .ready) (hc : s.dcnt = 0) (b0 b1 b2 b3 b4 b5 b6 b7 : Byte) :
    execAll (blockCmds [b0, b1, b2, b3, b4, b5, b6, b7]) s = .next { s with
      dsr := bytesToBlock b0 b1 b2 b3 b4 b5 b6 b7
      blk := bytesToBlock b0 b1 b2 b3 b4 b5 b6 b7
      bv := true
      dcnt := 0 } := by
  have hpush := execAll_dpush [b0, b1, b2, b3, b4, b5, b6, b7] h (by simp [hc])
  rw [pushBytes_eight, hc] at hpush
  rw [blockCmds, execAll_append _ hpush]
  exact execAll_effectOf [] h (faultOf_ldblk rfl)

theorem responsesOf_blockCmds (bytes : List Byte) (s : State) : responsesOf (blockCmds bytes) s = [] := by
  refine responsesOf_eq_nil s fun i hi => ?_
  obtain hi | hi := List.mem_append.1 hi
  · obtain ⟨b, _, rfl⟩ := List.mem_map.1 hi
    rfl
  · cases List.mem_singleton.1 hi
    rfl

/-! UNLD (R104). -/

theorem faultOf_unld {s : State} (hv : s.bv = true) : faultOf .unld s = none := if_pos hv

/-- Settles O14, by the one precondition of UNLD and the port of a busy core. -/
theorem unldFillsTheSerializer : Obligations.UnldFillsTheSerializer :=
  ⟨rfl, fun _ => State.cmdReady_of_busy, fun _ h hv => exec_eq_effectOf h (faultOf_unld hv),
    fun _ h hv => exec_eq_raise (i := .unld) (c := .blockNotLoaded) h (if_neg (by simp [hv]))⟩

/-! DPOP (R105). -/

theorem faultOf_dpop {s : State} (hc : s.scnt ≠ 0) : faultOf .dpop s = none := if_neg hc

theorem faultOf_dpop_of_pos {s : State} (h : 0 < s.scnt.toNat) : faultOf .dpop s = none :=
  faultOf_dpop (by bv_omega)

theorem toNat_effectOf_dpop_scnt {s : State} (h : 0 < s.scnt.toNat) :
    (effectOf .dpop s).scnt.toNat = s.scnt.toNat - 1 := by
  rw [show (effectOf .dpop s).scnt = s.scnt - 1 from rfl]
  bv_omega

/-- One byte shifted out, then `k` more. -/
theorem shiftLeft_eight_shiftLeft (v : Block) (k : Nat) : v <<< 8 <<< (8 * k) = v <<< (8 * (k + 1)) := by
  rw [← BitVec.shiftLeft_add, Nat.mul_succ, Nat.add_comm]

theorem blockByte_shiftLeft_eight (v : Block) {k : Nat} (hk : k < 7) : blockByte (v <<< 8) k = blockByte v (k + 1) := by
  rw [← blockByte_shiftLeft (v <<< 8) (by omega), shiftLeft_eight_shiftLeft, blockByte_shiftLeft v (by omega)]

/-- A run of pops that the serializer can serve: it is shifted and counted down, and only the response port changes
beside it. -/
theorem execAll_dpop {k : Nat} {s : State} (h : s.mode = .ready) (hk : k ≤ s.scnt.toNat) :
    ∃ r, execAll (List.replicate k .dpop) s = .next { s with
      ssr := s.ssr <<< (8 * k)
      scnt := BitVec.ofNat 4 (s.scnt.toNat - k)
      rsp := r } := by
  induction k generalizing s with
  | zero => exact ⟨s.rsp, by simp [execAll]⟩
  | succ k ih =>
    have hpos : 0 < s.scnt.toNat := by omega
    have hcnt := toNat_effectOf_dpop_scnt hpos
    obtain ⟨r, hr⟩ := ih (s := effectOf .dpop s) h (by omega)
    refine ⟨r, ?_⟩
    rw [List.replicate_succ, execAll_effectOf _ h (faultOf_dpop_of_pos hpos), hr, hcnt, Nat.sub_sub, Nat.add_comm 1 k,
      ← shiftLeft_eight_shiftLeft]
    rfl

/-- A run of pops responds the bytes of `SSR`, the most significant one first. -/
theorem responsesOf_dpop {k : Nat} {s : State} (h : s.mode = .ready) (hk : k ≤ s.scnt.toNat) (hk8 : k ≤ 8) :
    responsesOf (List.replicate k .dpop) s = (List.range k).map fun j => (blockByte s.ssr j).setWidth 16 := by
  induction k generalizing s with
  | zero => rfl
  | succ k ih =>
    have hpos : 0 < s.scnt.toNat := by omega
    have hcnt := toNat_effectOf_dpop_scnt hpos
    rw [List.replicate_succ, responsesOf_effectOf _ h (faultOf_dpop_of_pos hpos),
      ih (s := effectOf .dpop s) h (by omega) (by omega), List.range_succ_eq_map, List.map_cons, List.map_map]
    refine congrArg (List.cons _) (List.map_congr_left fun j hj => ?_)
    have hj : j < k := List.mem_range.1 hj
    exact congrArg (BitVec.setWidth 16) (blockByte_shiftLeft_eight s.ssr (by omega))

/-- UNLD and `k` pops (R105, R106). -/
theorem execAll_unld_dpop {k : Nat} {s : State} (h : s.mode = .ready) (hv : s.bv = true) (hk : k ≤ 8) :
    ∃ r, execAll (.unld :: List.replicate k .dpop) s = .next { s with
      ssr := s.blk <<< (8 * k)
      scnt := BitVec.ofNat 4 (8 - k)
      rsp := r } := by
  rw [execAll_effectOf _ h (faultOf_unld hv)]
  exact execAll_dpop (s := effectOf .unld s) h hk

/-- Settles O15: the command's own equations by its one precondition, the bytes handed out by the run of `k` pops. -/
theorem dpopHandsOutOneByte : Obligations.DpopHandsOutOneByte := by
  refine ⟨rfl, fun _ h hc => exec_eq_effectOf h (faultOf_dpop hc),
    fun _ h hc => exec_eq_raise (i := .dpop) (c := .serializerEmpty) h (if_pos hc), fun s k h hv hk => ?_⟩
  obtain ⟨r, hr⟩ := execAll_unld_dpop h hv hk
  refine ⟨_, hr, h, ?_, fun hk => blockByte_shiftLeft s.blk hk⟩
  rw [BitVec.toNat_ofNat]
  omega

/-! BLOCK and READ8 (R106). -/

theorem responsesOf_read8Cmds {s : State} (h : s.mode = .ready) (hv : s.bv = true) :
    responsesOf read8Cmds s = (blockToBytes s.blk).map (BitVec.setWidth 16) := by
  rw [read8Cmds, responsesOf_effectOf _ h (faultOf_unld hv),
    responsesOf_dpop (k := 8) (s := effectOf .unld s) h le_rfl le_rfl, blockToBytes_eq_map_range, List.map_map]
  rfl

/-- READ8 empties the serializer and leaves every register but its own as it was. -/
theorem execAll_read8Cmds {s : State} (h : s.mode = .ready) (hv : s.bv = true) :
    ∃ r, execAll read8Cmds s = .next { s with ssr := 0, scnt := 0, rsp := r } := by
  obtain ⟨r, hr⟩ := execAll_unld_dpop h hv le_rfl
  exact ⟨r, by rw [read8Cmds, hr, BitVec.shiftLeft_eq_zero (by decide)]; rfl⟩

/-- Settles O31, from the run of pushes, the run of pops and the round trip of bytes and blocks. -/
theorem blockThenReadGivesTheBytes : Obligations.BlockThenReadGivesTheBytes := by
  refine ⟨fun s b0 b1 b2 b3 b4 b5 b6 b7 h hc => ?_, fun s h hv => ?_⟩
  · have hblock := execAll_blockCmds h hc b0 b1 b2 b3 b4 b5 b6 b7
    refine ⟨hblock, ?_⟩
    rw [responsesOf_append _ hblock, responsesOf_blockCmds, List.nil_append, ← blockToBytes_bytesToBlock]
    exact responsesOf_read8Cmds h rfl
  · obtain ⟨r, hr⟩ := execAll_read8Cmds h hv
    exact ⟨responsesOf_read8Cmds h hv, _, hr, rfl⟩

end Sys2Proof.Machine
end

section
/-! PROOFS. The Key Scheduler (41_key_schedule.md): the words of a table row and the words of no row, the subkeys, and
the commands LDKEY and RDSK. -/

namespace Sys2Proof.Machine

/-! Command words (R80, R84, R90). -/

/-- A command word as the sum of its shifted fields. -/
theorem assembleWord_eq_or (op arg : BitVec 4) (imm : Byte) :
    assembleWord op arg imm = op.setWidth 16 <<< 12 ||| arg.setWidth 16 <<< 8 ||| imm.setWidth 16 := by
  refine BitVec.eq_of_getLsbD_eq fun i hi => ?_
  have hsub : ∀ k, i - k < 16 := by omega
  rw [getLsbD_assembleWord]
  simp only [BitVec.getLsbD_or, BitVec.getLsbD_shiftLeft, BitVec.getLsbD_setWidth, hi, hsub]
  split_ifs with h8 h12
  · simp [h8, show i < 12 by omega]
  · simp [h8, h12, BitVec.getLsbD_of_ge imm i (by omega)]
  · simp [h8, h12, BitVec.getLsbD_of_ge arg (i - 8) (by omega), BitVec.getLsbD_of_ge imm i (by omega)]

/-- A row selects a word exactly when it selects each of its fields (R84). -/
theorem selects_iff {row : OpcodeRow} {cw : CmdWord} :
    row.selects cw = true ↔ cwOp cw &&& cwOp row.mask = cwOp row.pattern
      ∧ cwArg cw &&& cwArg row.mask = cwArg row.pattern ∧ cwImm cw &&& cwImm row.mask = cwImm row.pattern := by
  conv_lhs => rw [← assembleWord_fields cw, selects_assembleWord]
  simp only [Bool.and_eq_true, beq_iff_eq, and_assoc]

/-- A word that no table row selects is ILLEGAL (R84). -/
theorem decode_eq_illegalCommand {cw : CmdWord} (h : ∀ row ∈ opcodeRows, ¬ row.selects cw = true) :
    decode cw = .error .illegalCommand := by
  rw [decode, List.find?_eq_none.2 h]

/-- The rows of operation 7 are the two of RDSK: lanes 0..3 and lanes 4..5 (R84). -/
theorem imm_of_rdskRow {row : OpcodeRow} (hrow : row ∈ opcodeRows) (hop : 0x7 &&& cwOp row.mask = cwOp row.pattern) :
    (cwImm row.mask = 0xFC ∧ cwImm row.pattern = 0) ∨ (cwImm row.mask = 0xFE ∧ cwImm row.pattern = 4) := by
  revert row
  decide

/-- A lane in 6..255 is in neither row (R124). -/
theorem lane_masked_ne {lane : Byte} (h : 6 ≤ lane.toNat) : lane &&& 0xFC ≠ 0 ∧ lane &&& 0xFE ≠ 4 := by
  revert lane
  decide

theorem decode_rdsk_illegal {cw : CmdWord} (hop : cwOp cw = 0x7) (hlane : 6 ≤ (cwImm cw).toNat) :
    decode cw = .error .illegalCommand := by
  obtain ⟨hlow, hhigh⟩ := lane_masked_ne hlane
  refine decode_eq_illegalCommand fun row hrow hsel => ?_
  obtain ⟨hrowOp, _, hrowImm⟩ := selects_iff.1 hsel
  rw [hop] at hrowOp
  obtain ⟨hmask, hpattern⟩ | ⟨hmask, hpattern⟩ := imm_of_rdskRow hrow hrowOp <;> rw [hmask, hpattern] at hrowImm
  · exact hlow hrowImm
  · exact hhigh hrowImm

theorem encode_rdskLow (i : BitVec 4) (j : BitVec 2) :
    encode (.rdskLow i j) = 0x7000#16 ||| (i.setWidth 16 <<< 8) ||| j.setWidth 16 := by
  have hlane : (j.setWidth 8).setWidth 16 = j.setWidth 16 := by rw [BitVec.setWidth_setWidth (by simp)]
  rw [encode, assembleWord_eq_or, hlane]
  rfl

theorem encode_rdskHigh (i : BitVec 4) (j : BitVec 1) :
    encode (.rdskHigh i j) = 0x7004#16 ||| (i.setWidth 16 <<< 8) ||| j.setWidth 16 := by
  have hlane : (4 + j.setWidth 8 : Byte).setWidth 16 = 4#16 ||| j.setWidth 16 := by
    revert j
    decide
  have hword : 0x7004#16 = (0x7#4).setWidth 16 <<< 12 ||| 4#16 := rfl
  rw [encode, assembleWord_eq_or, hlane, hword]
  ac_rfl

/-! The subkeys (R122). -/

theorem get_deriveSubkeys (key : Block) (i : Fin 16) : (deriveSubkeys key).get i = subkeyOf key i.val :=
  Vector.get_ofFn _ i

theorem subkeyOf_eq_setWidth (key : Block) (i : Nat) : subkeyOf key i = (key >>> i).setWidth 48 :=
  (BitVec.setWidth_eq_extractLsb' (x := key >>> i) (by decide)).symm

theorem subkeyOf_eq_extractLsb' (key : Block) (i : Nat) : subkeyOf key i = key.extractLsb' i 48 :=
  (subkeyOf_eq_setWidth key i).trans BitVec.setWidth_ushiftRight_eq_extractLsb

/-- Settles O32, by the two readings of one subkey. -/
theorem subkeysAreShiftsOfTheKey : Obligations.SubkeysAreShiftsOfTheKey := fun key i => by
  rw [get_deriveSubkeys]
  exact ⟨subkeyOf_eq_setWidth key i, subkeyOf_eq_extractLsb' key i⟩

/-! LDKEY (R121). -/

theorem faultOf_ldkey {s : State} (hc : s.dcnt = 8) : faultOf .ldkey s = none := if_pos hc

/-- Settles O16, by the one precondition of LDKEY and the port of a busy core. -/
theorem ldkeyDerivesAllSubkeys : Obligations.LdkeyDerivesAllSubkeys :=
  ⟨rfl, fun _ => State.cmdReady_of_busy, fun _ h hc => exec_eq_effectOf h (faultOf_ldkey hc),
    fun _ h hc => exec_eq_raise (i := .ldkey) (c := .invalidBlockLength) h (if_neg hc)⟩

/-! RDSK (R124). -/

/-- Settles O17: in each row by the one precondition of RDSK, the lanes of neither row by the table. -/
theorem rdskReadsAByteLane : Obligations.RdskReadsAByteLane := by
  refine ⟨fun i j => ⟨encode_rdskLow i j, fun s h hk => ?_, fun s h hk => ?_, fun s h => ?_⟩,
    fun i j => ⟨encode_rdskHigh i j, fun s h hk => ?_, fun s h hk => ?_, fun s h => ?_⟩,
    fun _ => State.cmdReady_of_busy, fun _ => decode_rdsk_illegal⟩
  · exact exec_eq_effectOf h (if_pos hk)
  · exact exec_eq_raise (i := .rdskLow i j) (c := .keyNotLoaded) h (if_neg (by simp [hk]))
  · exact exec_fault_eq (.rdskLow i j) h
  · exact exec_eq_effectOf h (if_pos hk)
  · exact exec_eq_raise (i := .rdskHigh i j) (c := .keyNotLoaded) h (if_neg (by simp [hk]))
  · exact exec_fault_eq (.rdskHigh i j) h

end Sys2Proof.Machine
end

section
/-! PROOFS. The Round Function (42_round_function.md): bits copied by a table, which is what `expand` and `permute` are,
and the groups that `substitute` looks up. -/

namespace Sys2Proof.Machine

/-! Positions (R12, R140). -/

@[simp] theorem posBit_ofPositions {n : Nat} (f : Position n → Bool) (q : Position n) :
    posBit (ofPositions f) q = f q := getLsbD_ofPositions f q

@[simp] theorem posBit_xor {n : Nat} (v w : BitVec n) (q : Position n) :
    posBit (v ^^^ w) q = (posBit v q ^^ posBit w q) := BitVec.getLsbD_xor

@[simp] theorem posBit_zero {n : Nat} (q : Position n) : posBit 0#n q = false := BitVec.getLsbD_zero

/-- Two values with the same bit at every position are equal. -/
theorem eq_of_posBit_eq {n : Nat} {v w : BitVec n} (h : ∀ q, posBit v q = posBit w q) : v = w := by
  refine BitVec.eq_of_getLsbD_eq fun i hi => ?_
  have hplace : n - (n - 1 - i + 1) = i := by omega
  simpa only [posBit, hplace] using h ⟨n - 1 - i, by omega⟩

/-! Bits copied by a table: the stages `expand` and `permute` (R141, R147). -/

/-- The value whose bit at each position is the bit of `v` at the position that the table names. -/
def copyPositions {m n : Nat} (table : Vector (Position m) n) (v : BitVec m) : BitVec n :=
  ofPositions fun p => posBit v (table.get p)

theorem expand_eq_copyPositions (t : Tables) : expand t = copyPositions t.etab := rfl

theorem permute_eq_copyPositions (t : Tables) : permute t = copyPositions t.ptab := rfl

section
variable {m n : Nat} (table : Vector (Position m) n)

@[simp] theorem posBit_copyPositions (v : BitVec m) (p : Position n) :
    posBit (copyPositions table v) p = posBit v (table.get p) := posBit_ofPositions _ p

theorem copyPositions_xor (v w : BitVec m) :
    copyPositions table (v ^^^ w) = copyPositions table v ^^^ copyPositions table w :=
  eq_of_posBit_eq fun p => by simp

theorem copyPositions_zero : copyPositions table 0#m = 0#n :=
  eq_of_posBit_eq fun p => by simp

end

/-- Settles O34: `expand` copies bits by the table `ETAB`, and copied bits are linear. -/
theorem expandCopiesTheTableBits : Obligations.ExpandCopiesTheTableBits := fun t => by
  rw [expand_eq_copyPositions]
  exact ⟨posBit_copyPositions t.etab, copyPositions_xor t.etab, copyPositions_zero t.etab⟩

/-- Settles O36: `permute` copies bits by the table `PTAB`, and copied bits are linear. -/
theorem permuteCopiesTheTableBits : Obligations.PermuteCopiesTheTableBits := fun t => by
  rw [permute_eq_copyPositions]
  exact ⟨posBit_copyPositions t.ptab, copyPositions_xor t.ptab, copyPositions_zero t.ptab⟩

/-! The groups of a mixed word (R145). -/

theorem getLsbD_bitGroup (m : BitVec 48) (g : Nat) {k : Nat} (hk : k < 6) :
    (bitGroup m g).getLsbD k = m.getLsbD (42 - 6 * g + k) := by
  rw [bitGroup, BitVec.getLsbD_extractLsb', decide_eq_true hk, Bool.true_and]

theorem toNat_groupRow (grp : BitVec 6) :
    (groupRow grp).toNat = 2 * (grp.getLsbD 5).toNat + (grp.getLsbD 0).toNat := by
  revert grp
  decide

/-- The row number of group `g`, by the first and the last bit of the group in the word. -/
theorem toNat_groupRow_bitGroup (m : BitVec 48) {g : Nat} (hg : g < 8) :
    (groupRow (bitGroup m g)).toNat = 2 * (m.getLsbD (47 - 6 * g)).toNat + (m.getLsbD (42 - 6 * g)).toNat := by
  have hfirst : 42 - 6 * g + 5 = 47 - 6 * g := by omega
  rw [toNat_groupRow, getLsbD_bitGroup m g (by decide), getLsbD_bitGroup m g (by decide), hfirst, Nat.add_zero]

/-- The column number of group `g`, as four bits of the word. -/
theorem groupCol_bitGroup (m : BitVec 48) {g : Nat} (hg : g < 8) :
    groupCol (bitGroup m g) = m.extractLsb' (43 - 6 * g) 4 := by
  refine BitVec.eq_of_getLsbD_eq fun i hi => ?_
  have hplace : 42 - 6 * g + (1 + i) = 43 - 6 * g + i := by omega
  rw [groupCol, BitVec.getLsbD_extractLsb', BitVec.getLsbD_extractLsb', getLsbD_bitGroup m g (by omega), hplace]

/-! The nibbles of a substituted word (R145, R146). -/

theorem sboxEntry_eq_get (t : Tables) (table : Fin 4) {row : BitVec 2} {col : BitVec 4} {r : Fin 4} {c : Fin 16}
    (hr : r.val = row.toNat) (hc : c.val = col.toNat) :
    sboxEntry t table row col = ((t.sbox.get table).get r).get c := by
  rw [sboxEntry, show r = row.toFin from Fin.ext hr, show c = col.toFin from Fin.ext hc]

/-- Nibble `g` of a substituted word, counted from the most significant end, is the one looked up for group `g`. -/
theorem extractLsb'_substitute (t : Tables) (m : BitVec 48) {g : Nat} (hg : g < 8) :
    (substitute t m).extractLsb' (28 - 4 * g) 4 = substituteGroup t m g := by
  refine BitVec.eq_of_getLsbD_eq fun i hi => ?_
  rw [BitVec.getLsbD_extractLsb', getLsbD_substitute, decide_eq_true hi, Bool.true_and]
  interval_cases g <;>
    simp (disch := omega) only [if_pos, if_neg, Nat.add_sub_cancel_left, Nat.zero_add, Nat.reduceMul, Nat.reduceSub]

/-- Settles O35: nibble `g` is looked up for group `g`, in the row and the column that the word's bits give. -/
theorem substituteLooksUpEachGroup : Obligations.SubstituteLooksUpEachGroup := by
  intro t m g row col hg hrow hcol
  have htable : Fin.ofNat 4 (g % 4) = Fin.ofNat 4 g := Fin.ext (Nat.mod_mod g 4)
  rw [extractLsb'_substitute t m hg, substituteGroup, htable]
  refine sboxEntry_eq_get t _ ?_ ?_
  · rw [toNat_groupRow_bitGroup m hg, hrow]
  · rw [groupCol_bitGroup m hg, hcol]

end Sys2Proof.Machine
end

section
/-! PROOFS. The Block Transform (43_block_transform.md): the preconditions of ENC and DEC, the subkey that the direction
mux selects, and the two engine steps ROUND and FINAL. -/

namespace Sys2Proof.Machine

/-! The preconditions of ENC and DEC: the key is checked before the block (R174, R175, R263). -/

/-- DEC has the preconditions of ENC (R175). -/
theorem faultOf_dec (s : State) : faultOf .dec s = faultOf .enc s := rfl

theorem faultOf_enc {s : State} (hk : s.kv = true) (hv : s.bv = true) : faultOf .enc s = none :=
  (if_pos hk).trans (if_pos hv)

theorem faultOf_enc_without_key {s : State} (hk : s.kv = false) : faultOf .enc s = some .keyNotLoaded :=
  if_neg (by simp [hk])

theorem faultOf_enc_without_block {s : State} (hk : s.kv = true) (hv : s.bv = false) :
    faultOf .enc s = some .blockNotLoaded :=
  (if_pos hk).trans (if_neg (by simp [hv]))

/-- Settles O18, by the two preconditions of ENC in their order and the port of a busy core. -/
theorem encStartsATransform : Obligations.EncStartsATransform :=
  ⟨rfl, fun _ => State.cmdReady_of_busy, fun _ h hk hv => exec_eq_effectOf h (faultOf_enc hk hv),
    fun _ h hk => exec_eq_raise h (faultOf_enc_without_key hk),
    fun _ h hk hv => exec_eq_raise h (faultOf_enc_without_block hk hv)⟩

/-- Settles O19: DEC faults when ENC does, and its effect differs in the direction alone. -/
theorem decStartsATransform : Obligations.DecStartsATransform :=
  ⟨rfl, fun _ => State.cmdReady_of_busy,
    fun s h hk hv => exec_eq_effectOf h ((faultOf_dec s).trans (faultOf_enc hk hv)),
    fun s h hk => exec_eq_raise h ((faultOf_dec s).trans (faultOf_enc_without_key hk)),
    fun s h hk hv => exec_eq_raise h ((faultOf_dec s).trans (faultOf_enc_without_block hk hv))⟩

/-! The direction mux (R27, R176). -/

theorem val_roundIndex_enc {n : Nat} (hn : n < 16) : (roundIndex .enc n).val = n := Nat.mod_eq_of_lt hn

theorem val_roundIndex_dec (n : Nat) : (roundIndex .dec n).val = 15 - n := Nat.mod_eq_of_lt (by omega)

/-! The engine steps (R176, R177). -/

/-- Settles O38: while `RC < 16` the engine step is ROUND, and the direction mux selects the subkey `r`. -/
theorem roundStepIsOneFeistelRound : Obligations.RoundStepIsOneFeistelRound := by
  intro tb s r _ hlt hr
  have hmux : r = roundIndex s.dir s.rc.toNat := by
    refine Fin.ext ?_
    cases hd : s.dir with
    | enc => rw [hr, hd, val_roundIndex_enc hlt]
    | dec => rw [hr, hd, val_roundIndex_dec]
  subst hmux
  exact engineStep_of_lt tb hlt

/-- Settles O39: at `RC = 16` the engine step is FINAL. -/
theorem finalStepJoinsTheHalves : Obligations.FinalStepJoinsTheHalves :=
  fun tb _ _ hrc => engineStep_of_eq tb hrc

end Sys2Proof.Machine
end

section
/-! PROOFS. The system commands (44_system.md): what NOP, STAT and INIT do in READY and in FAULT mode, the words of their
operations that are in no table row, and that INIT alone leads out of FAULT mode. -/

namespace Sys2Proof.Machine

/-! The commands that are executed in FAULT mode too (R82, R262). -/

theorem State.busy_eq_false_of_ready_or_fault {s : State} (h : s.mode = .ready ∨ s.mode = .fault) : s.busy = false :=
  h.elim (fun hr => ((State.mode_ready_iff s).1 hr).1) (fun hf => ((State.mode_fault_iff s).1 hf).1)

/-- The commands of FAULT mode have no precondition that can fail (R250). -/
theorem faultOf_of_runsInFaultMode {i : Instr} (hi : runsInFaultMode i = true) (s : State) : faultOf i s = none := by
  cases i
  case nop | statLow | statRc | init => rfl
  all_goals cases hi

theorem exec_of_runsInFaultMode {i : Instr} {s : State} (hi : runsInFaultMode i = true)
    (h : s.mode = .ready ∨ s.mode = .fault) : exec i s = .next (effectOf i s) := by
  obtain hr | hf := h
  · exact exec_eq_effectOf hr (faultOf_of_runsInFaultMode hi s)
  · rw [exec_fault_eq i hf, if_pos hi]

/-- NOP and STAT write the response port at most. -/
theorem effectOf_of_runsInFaultMode {i : Instr} (hi : runsInFaultMode i = true) (hne : i ≠ .init) (s : State) :
    ∃ r, effectOf i s = { s with rsp := r } := by
  cases i
  case nop | statLow | statRc => exact ⟨_, rfl⟩
  case init => exact absurd rfl hne
  all_goals cases hi

/-! Words that a row selects by all their bits (R84). -/

theorem OpcodeRow.eq_pattern_of_selects {row : OpcodeRow} {cw : CmdWord} (hmask : row.mask = 0xFFFF)
    (hsel : row.selects cw = true) : cw = row.pattern := by
  have hand : cw &&& row.mask = row.pattern := beq_iff_eq.1 hsel
  rw [← hand, hmask]
  exact (BitVec.and_allOnes (x := cw)).symm

/-- A word that decodes is selected by a row that builds its command. -/
theorem exists_row_of_decode {cw : CmdWord} {i : Instr} (h : decode cw = .ok i) :
    ∃ row ∈ opcodeRows, row.selects cw = true ∧ row.build cw = i := by
  rw [decode] at h
  cases hfind : opcodeRows.find? (fun row => row.selects cw) with
  | none => simp [hfind] at h
  | some row =>
    rw [hfind] at h
    have hsel := List.find?_some hfind
    exact ⟨row, List.mem_of_find?_eq_some hfind, hsel, Except.ok.inj h⟩

/-! NOP (R200). -/

/-- The one row of operation 0 is that of NOP (R84). -/
theorem bits_of_nopRow {row : OpcodeRow} (hrow : row ∈ opcodeRows) (hop : 0x0 &&& cwOp row.mask = cwOp row.pattern) :
    row.mask = 0xFFFF ∧ row.pattern = 0x0000 := by
  revert row
  decide

theorem decode_nop_illegal {cw : CmdWord} (hop : cwOp cw = 0) (hne : cw ≠ 0) : decode cw = .error .illegalCommand := by
  refine decode_eq_illegalCommand fun row hrow hsel => hne ?_
  obtain ⟨hrowOp, _, _⟩ := selects_iff.1 hsel
  rw [hop] at hrowOp
  obtain ⟨hmask, hpattern⟩ := bits_of_nopRow hrow hrowOp
  exact (OpcodeRow.eq_pattern_of_selects hmask hsel).trans hpattern

/-- Settles O11, by the effect of NOP, the port of a busy core and the one row of operation 0. -/
theorem nopChangesNothing : Obligations.NopChangesNothing :=
  ⟨rfl, fun _ => exec_of_runsInFaultMode rfl, fun _ => State.cmdReady_of_busy, fun _ => decode_nop_illegal⟩

/-! STAT (R201). -/

/-- `STATUS[9]` of a core that is not busy (R33, R201). -/
theorem status_of_not_busy {s : State} (hb : s.busy = false) :
    s.status
      = s.err ++ BitVec.ofBool s.kv ++ BitVec.ofBool s.bv ++ 0#1 ++ s.dir.bit ++ s.scnt ++ s.dcnt := by
  rw [State.status, hb]
  rfl

theorem encode_statLow (sel : BitVec 1) : encode (.statLow sel) = 0x8000#16 ||| (sel.setWidth 16 <<< 8) := by
  revert sel
  decide

/-- The rows of operation 8 are the two of STAT: selectors 0 and 1, and selector 2 (R84). -/
theorem fields_of_statRow {row : OpcodeRow} (hrow : row ∈ opcodeRows)
    (hop : 0x8 &&& cwOp row.mask = cwOp row.pattern) :
    (cwImm row.mask = 0xFF ∧ cwImm row.pattern = 0)
      ∧ ((cwArg row.mask = 0xE ∧ cwArg row.pattern = 0) ∨ (cwArg row.mask = 0xF ∧ cwArg row.pattern = 2)) := by
  revert row
  decide

/-- A selector in 3..15 is in neither row (R201). -/
theorem selector_masked_ne {sel : BitVec 4} (h : 3 ≤ sel.toNat) : sel &&& 0xE ≠ 0 ∧ sel &&& 0xF ≠ 2 := by
  revert sel
  decide

theorem decode_stat_illegal {cw : CmdWord} (hop : cwOp cw = 0x8) (h : 3 ≤ (cwArg cw).toNat ∨ cwImm cw ≠ 0) :
    decode cw = .error .illegalCommand := by
  refine decode_eq_illegalCommand fun row hrow hsel => ?_
  obtain ⟨hrowOp, hrowArg, hrowImm⟩ := selects_iff.1 hsel
  rw [hop] at hrowOp
  obtain ⟨⟨himmMask, himmPattern⟩, hrows⟩ := fields_of_statRow hrow hrowOp
  obtain hsel3 | himm := h
  · obtain ⟨hlow, hrc⟩ := selector_masked_ne hsel3
    obtain ⟨hmask, hpattern⟩ | ⟨hmask, hpattern⟩ := hrows <;> rw [hmask, hpattern] at hrowArg
    · exact hlow hrowArg
    · exact hrc hrowArg
  · rw [himmMask, himmPattern] at hrowImm
    exact himm ((BitVec.and_allOnes (x := cwImm cw)).symm.trans hrowImm)

/-- Settles O20: the three responses by the effect of STAT on a core that is not busy, RC by the invariant's clause for
such a core, the illegal words by the two rows of operation 8. -/
theorem statReportsTheStatus : Obligations.StatReportsTheStatus := by
  refine ⟨encode_statLow, rfl, fun s h => ?_, fun _ => State.cmdReady_of_busy, fun _ => decode_stat_illegal⟩
  have hb := State.busy_eq_false_of_ready_or_fault h
  refine ⟨?_, exec_of_runsInFaultMode rfl h, exec_of_runsInFaultMode rfl h, fun hinv => hinv.idle_rc hb⟩
  rw [← status_of_not_busy hb]
  exact exec_of_runsInFaultMode rfl h

/-! INIT (R202). -/

@[simp] theorem State.resetRegs_status (s : State) : s.resetRegs.status = 0 := by
  simp [State.status, Direction.bit]

/-- The one row that builds INIT (R84). -/
theorem bits_of_initRow {row : OpcodeRow} {cw : CmdWord} (hrow : row ∈ opcodeRows) (hbuild : row.build cw = .init) :
    row.mask = 0xFFFF ∧ row.pattern = 0x9000 := by
  revert row
  simp [opcodeRows]

theorem eq_of_decode_init {cw : CmdWord} (h : decode cw = .ok .init) : cw = 0x9000 := by
  obtain ⟨row, hrow, hsel, hbuild⟩ := exists_row_of_decode h
  obtain ⟨hmask, hpattern⟩ := bits_of_initRow hrow hbuild
  exact (OpcodeRow.eq_pattern_of_selects hmask hsel).trans hpattern

/-- All that a word accepted in FAULT mode can do, if it is not INIT: write the response port (R262). -/
theorem acceptWord_fault_cases {cw : CmdWord} {s t : State} (hm : s.mode = .fault) (h : acceptWord cw s = .next t) :
    cw = 0x9000 ∨ ∃ r, t = { s with rsp := r } := by
  cases hd : decode cw with
  | error e =>
    rw [acceptWord_illegal hd, illegalWordStep_eq, if_neg (by simp [hm])] at h
    cases h
    exact .inr ⟨s.rsp, rfl⟩
  | ok i =>
    rw [acceptWord_ok hd] at h
    by_cases hinit : i = .init
    · subst hinit
      exact .inl (eq_of_decode_init hd)
    · refine .inr ?_
      rw [exec_fault_eq i hm] at h
      cases hi : runsInFaultMode i <;> rw [hi] at h <;> cases h
      · exact ⟨s.rsp, rfl⟩
      · exact effectOf_of_runsInFaultMode hi hinit s

/-- Settles O21: the registers by the effect of INIT, and the mode is a function of registers that no other word accepted
in FAULT mode writes. -/
theorem initClearsTheFlags : Obligations.InitClearsTheFlags := by
  refine ⟨rfl, fun _ => State.cmdReady_of_busy, fun s h => ?_, fun cw s t hm h hne => ?_⟩
  · exact ⟨s.resetRegs, exec_of_runsInFaultMode (i := .init) rfl h, rfl, rfl, rfl, rfl, rfl, rfl, rfl, rfl, rfl,
      State.resetRegs_status s, rfl, rfl, rfl⟩
  · obtain hcw | ⟨r, rfl⟩ := acceptWord_fault_cases hm h
    · exact hcw
    · exact absurd hm hne

end Sys2Proof.Machine
end

section
/-! PROOFS. The host functions (45_host_sequences.md): the normalised key, the padding, and `decrypt` after `encrypt`, which
rests on the rounds of a transform being undone by those of the other direction (R180). -/

namespace Sys2Proof.Machine

/-! Key normalisation (R215). -/

theorem normalizeKey_of_le {k : List Byte} (h : 8 ≤ k.length) : normalizeKey k = k.take 8 := if_pos h

theorem normalizeKey_of_lt {k : List Byte} (h : k.length < 8) :
    normalizeKey k = k ++ List.replicate (8 - k.length) 0 := if_neg (Nat.not_le.mpr h)

@[simp] theorem length_normalizeKey (k : List Byte) : (normalizeKey k).length = 8 := by
  obtain h | h := Nat.lt_or_ge k.length 8
  · rw [normalizeKey_of_lt h, List.length_append, List.length_replicate, Nat.add_sub_cancel' h.le]
  · rw [normalizeKey_of_le h, List.length_take, Nat.min_eq_left h]

/-- A key of eight bytes is its own normal form. -/
theorem normalizeKey_of_length_eq {k : List Byte} (h : k.length = 8) : normalizeKey k = k :=
  (normalizeKey_of_le h.ge).trans (List.take_of_length_le h.le)

/-- Settles O52: the two cases of the key's length; the result has eight bytes, and such a key stays as it is. -/
theorem normalizeGivesEightBytes : Obligations.NormalizeGivesEightBytes := fun k =>
  ⟨length_normalizeKey k, normalizeKey_of_length_eq (length_normalizeKey k), normalizeKey_of_le, normalizeKey_of_lt⟩

/-! Padding (R220, R221). -/

theorem unpad_concat (d : List Byte) (b : Byte) :
    unpad (d ++ [b]) = if 8 < b.toNat ∨ d.length + 1 < b.toNat then d ++ [b]
      else (d ++ [b]).take (d.length + 1 - b.toNat) := by
  simp only [unpad, List.getLast?_concat, List.length_append, List.length_singleton]

/-- Settles O54: the two branches of `unpad` at a last byte. -/
theorem unpadLooksAtTheLastByte : Obligations.UnpadLooksAtTheLastByte :=
  ⟨rfl, fun d b => ⟨fun h => (unpad_concat d b).trans (if_pos h),
    fun h8 hlen => (unpad_concat d b).trans (if_neg (not_or.mpr ⟨h8.not_gt, hlen.not_gt⟩))⟩⟩

/-- A run of `n` bytes of value `n` is taken off again, for each `n` that `pad` can use. -/
theorem unpad_append_replicate (d : List Byte) {n : Nat} (h1 : 1 ≤ n) (h8 : n ≤ 8) :
    unpad (d ++ List.replicate n (BitVec.ofNat 8 n)) = d := by
  obtain ⟨m, rfl⟩ := Nat.exists_eq_add_of_le' h1
  have hval : (BitVec.ofNat 8 (m + 1)).toNat = m + 1 := Nat.mod_eq_of_lt (by omega)
  rw [List.replicate_succ', ← List.append_assoc, unpad_concat, hval, List.length_append, List.length_replicate,
    if_neg (by omega), Nat.add_assoc, Nat.add_sub_cancel, List.append_assoc, List.take_left]

theorem one_le_padCount (d : List Byte) : 1 ≤ padCount d := by unfold padCount; omega

theorem padCount_le (d : List Byte) : padCount d ≤ 8 := Nat.sub_le 8 _

theorem length_pad (d : List Byte) : (pad d).length = 8 * (d.length / 8 + 1) := by
  rw [pad, List.length_append, List.length_replicate, padCount]
  omega

theorem length_pad_mod (d : List Byte) : (pad d).length % 8 = 0 := by rw [length_pad, Nat.mul_mod_right]

theorem unpad_pad (d : List Byte) : unpad (pad d) = d := unpad_append_replicate d (one_le_padCount d) (padCount_le d)

/-- Settles O53: `n` is the model's own count; the empty sequence is the one that `pad` after `unpad` does not give back. -/
theorem unpadInvertsPad : Obligations.UnpadInvertsPad :=
  ⟨fun d => ⟨padCount d, one_le_padCount d, padCount_le d, rfl, rfl, length_pad_mod d, unpad_pad d⟩, [], by decide⟩

/-! A transform is undone by the transform of the other direction (R180). -/

/-- The directions use the subkeys in opposite orders. -/
theorem roundIndex_reverse {d e : Direction} (hne : d ≠ e) {n : Nat} (hn : n < 16) :
    roundIndex e n = roundIndex d (15 - n) := by
  apply Fin.ext
  cases d <;> cases e
  case enc.enc | dec.dec => exact absurd rfl hne
  case enc.dec => rw [val_roundIndex_dec, val_roundIndex_enc (by omega)]
  case dec.enc => rw [val_roundIndex_dec, val_roundIndex_enc hn]; omega

/-- A round on the exchanged halves undoes the round with the same subkey. -/
theorem feistelRound_swap (t : Tables) (k : Subkey) (lr : Half × Half) :
    feistelRound t k (feistelRound t k lr).swap = lr.swap := by
  simp [feistelRound, Prod.swap]

/-- `n` rounds of the other direction on the exchanged halves undo the last `n` of the sixteen rounds. -/
theorem feistelRounds_undo (t : Tables) (sk : SubkeySet) {d e : Direction} (hne : d ≠ e) (lr : Half × Half) {n : Nat}
    (hn : n ≤ 16) : feistelRounds t sk e n (feistelRounds t sk d 16 lr).swap = (feistelRounds t sk d (16 - n) lr).swap := by
  induction n with
  | zero => rfl
  | succ n ih =>
    have hlast : feistelRounds t sk d (16 - n) lr
        = feistelRound t (sk.get (roundIndex e n)) (feistelRounds t sk d (15 - n) lr) := by
      rw [show 16 - n = 15 - n + 1 by omega, roundIndex_reverse hne hn, feistelRounds]
    rw [feistelRounds, ih (by omega), hlast, feistelRound_swap, show 16 - (n + 1) = 15 - n by omega]

theorem entryHalves_exitBlock (lr : Half × Half) : entryHalves (exitBlock lr) = lr.swap := by
  simp [entryHalves, exitBlock, initialPermutation, finalPermutation, Prod.swap]

theorem exitBlock_swap_entryHalves (b : Block) : exitBlock (entryHalves b).swap = b := joinHalves_halves b

theorem blockTransform_undo (t : Tables) (sk : SubkeySet) {d e : Direction} (hne : d ≠ e) (b : Block) :
    blockTransform t (blockTransform t b sk d) sk e = b := by
  have hundo := feistelRounds_undo t sk hne (entryHalves b) le_rfl
  rw [blockTransform, blockTransform, entryHalves_exitBlock, hundo]
  exact exitBlock_swap_entryHalves b

/-! Messages as sequences of chunks (R230, R231). -/

theorem mapChunks_blockToBytes_append (f : Block → Block) (v : Block) {rest out : List Byte}
    (h : mapChunks f rest = .ok out) :
    mapChunks f (blockToBytes v ++ rest) = .ok (blockToBytes (f v) ++ out) := by
  simp only [blockToBytes, List.cons_append, List.nil_append, mapChunks, h, bytesToBlock_blockByte]

/-- A sequence of eight bytes or more begins with the bytes of a block. -/
theorem exists_blockToBytes_append {d : List Byte} (h : 8 ≤ d.length) : ∃ v rest, d = blockToBytes v ++ rest :=
  match d, h with
  | b0 :: b1 :: b2 :: b3 :: b4 :: b5 :: b6 :: b7 :: rest, _ =>
    ⟨bytesToBlock b0 b1 b2 b3 b4 b5 b6 b7, rest, by rw [blockToBytes_bytesToBlock]; rfl⟩

/-- A sequence of `m` whole chunks is mapped to one of the same length, and a left inverse on blocks maps it back. -/
theorem mapChunks_whole {f g : Block → Block} (hgf : ∀ v, g (f v) = v) (m : Nat) {d : List Byte} (hd : d.length = 8 * m) :
    ∃ c, mapChunks f d = .ok c ∧ c.length = 8 * m ∧ mapChunks g c = .ok d := by
  induction m generalizing d with
  | zero =>
    obtain rfl := List.length_eq_zero_iff.mp hd
    exact ⟨[], rfl, rfl, rfl⟩
  | succ m ih =>
    obtain ⟨v, rest, rfl⟩ := exists_blockToBytes_append (d := d) (by omega)
    have hlen (w : Block) (tail : List Byte) : (blockToBytes w ++ tail).length = 8 + tail.length := List.length_append
    obtain ⟨c, hf, hc, hg⟩ := ih (d := rest) (by rw [hlen] at hd; omega)
    refine ⟨blockToBytes (f v) ++ c, mapChunks_blockToBytes_append f v hf, by rw [hlen]; omega, ?_⟩
    rw [mapChunks_blockToBytes_append g (f v) hg, hgf]

/-! The host's `encrypt` and `decrypt` (R230 to R233). -/

theorem exists_packChunk {bytes : List Byte} (h : bytes.length = 8) : ∃ v, packChunk bytes = .ok v :=
  match bytes, h with
  | [b0, b1, b2, b3, b4, b5, b6, b7], _ => ⟨bytesToBlock b0 b1 b2 b3 b4 b5 b6 b7, rfl⟩

/-- Every key gives a SubkeySet: its normal form is one block. -/
theorem exists_callSubkeys (key : List Byte) : ∃ sk, callSubkeys key = .ok sk := by
  obtain ⟨v, hv⟩ := exists_packChunk (length_normalizeKey key)
  exact ⟨deriveSubkeys v, by rw [callSubkeys, hv]⟩

/-- Settles O55: the padded message is whole chunks, DEC undoes ENC on each, and `unpad` undoes `pad`. -/
theorem decryptInvertsEncrypt : Obligations.DecryptInvertsEncrypt := by
  intro tb d key
  obtain ⟨sk, hsk⟩ := exists_callSubkeys key
  obtain ⟨c, henc, hlen, hdec⟩ :=
    mapChunks_whole (f := fun b => blockTransform tb b sk .enc) (g := fun b => blockTransform tb b sk .dec)
      (blockTransform_undo tb sk nofun) (d.length / 8 + 1) (length_pad d)
  refine ⟨c, by rw [encrypt, hsk]; exact henc, hlen, ?_⟩
  rw [decrypt, if_neg (by omega), hsk]
  simp only [hdec, unpad_pad]

end Sys2Proof.Machine
end

section
/-! PROOFS. FAULT mode (60_exceptions.md R262): the words that are dropped, and the port that stays ready. -/

namespace Sys2Proof.Machine

/-- A word of none of the commands of FAULT mode, legal or illegal, is consumed and dropped. -/
theorem acceptWord_dropped {cw : CmdWord} {s : State} (hm : s.mode = .fault)
    (hcw : ∀ i, decode cw = .ok i → runsInFaultMode i = false) : acceptWord cw s = .next s := by
  cases hd : decode cw with
  | error e => rw [acceptWord_illegal hd, illegalWordStep_eq, if_neg (by simp [hm])]
  | ok i => rw [acceptWord_ok hd, exec_fault_eq i hm, if_neg (by simp [hcw i hd])]

/-- An idle core closes the port only for a reset step (R81). -/
theorem State.cmdReady_of_not_busy {s : State} (hb : s.busy = false) (hr : s.rstPin = false) : s.cmdReady = true := by
  simp [State.cmdReady, hb, hr]

/-- Settles O24: a dropped word leaves the state as it was, and one that is executed, if it is not INIT, writes the
response port at most, so the first fault stays on record. -/
theorem faultModeDropsOtherWords : Obligations.FaultModeDropsOtherWords := by
  refine ⟨fun cw s hm hcw => acceptWord_dropped hm hcw, fun cw s t hm hne h => ?_, fun s hm hr => ?_⟩
  · obtain hcw | ⟨r, rfl⟩ := acceptWord_fault_cases hm h
    · exact absurd hcw hne
    · exact ⟨rfl, rfl⟩
  · exact State.cmdReady_of_not_busy (State.busy_eq_false_of_ready_or_fault (.inr hm)) hr

end Sys2Proof.Machine
end

section
/-! PROOFS. The opcode table (30_encoding.md R84, R90): each row is the inverse of the encoder on the words it selects,
and the legal words are exactly the encodings. -/

namespace Sys2Proof.Machine

/-! Rows and the encoder (R84). -/

/-- A command whose encoding has the fields of a word has that word as its encoding. -/
theorem encode_eq_of_fields {cw : CmdWord} {i : Instr} {op arg : BitVec 4} {imm : Byte}
    (hi : encode i = assembleWord op arg imm) (hop : cwOp cw = op) (harg : cwArg cw = arg) (himm : cwImm cw = imm) :
    encode i = cw := by
  rw [hi, ← hop, ← harg, ← himm, assembleWord_fields]

/-- The lanes 0..3 in two bits, and the lanes 4..5 in one (R124). -/
theorem lane_of_low {imm : Byte} (h : imm &&& 0xFC = 0) : imm = (imm.setWidth 2).setWidth 8 := by
  revert imm
  decide

theorem lane_of_high {imm : Byte} (h : imm &&& 0xFE = 4) : imm = 4 + (imm.setWidth 1).setWidth 8 := by
  revert imm
  decide

/-- The selectors 0..1 in one bit (R201). -/
theorem selector_of_low {sel : BitVec 4} (h : sel &&& 0xE = 0) : sel = (sel.setWidth 1).setWidth 4 := by
  revert sel
  decide

theorem and_allOnes_eq {n : Nat} {v w : BitVec n} (h : v &&& BitVec.allOnes n = w) : v = w :=
  BitVec.and_allOnes.symm.trans h

/-- The command a row builds from a word it selects has that word as its encoding. -/
theorem encode_build {row : OpcodeRow} {cw : CmdWord} (hrow : row ∈ opcodeRows) (hsel : row.selects cw = true) :
    encode (row.build cw) = cw := by
  obtain ⟨hop, harg, himm⟩ := selects_iff.1 hsel
  simp only [opcodeRows, List.mem_cons, List.not_mem_nil, or_false] at hrow
  obtain rfl | rfl | rfl | rfl | rfl | rfl | rfl | rfl | rfl | rfl | rfl | rfl | rfl := hrow
  -- every row but DPUSH, RDSK 0..3, RDSK 4..5 and STAT 0..1 selects its one word by all its bits
  any_goals exact (OpcodeRow.eq_pattern_of_selects rfl hsel).symm
  · exact encode_eq_of_fields rfl (and_allOnes_eq hop) (and_allOnes_eq harg) rfl
  · exact encode_eq_of_fields rfl (and_allOnes_eq hop) rfl (lane_of_low himm)
  · exact encode_eq_of_fields rfl (and_allOnes_eq hop) rfl (lane_of_high himm)
  · exact encode_eq_of_fields rfl (and_allOnes_eq hop) (selector_of_low harg) (and_allOnes_eq himm)

theorem encode_of_decode {cw : CmdWord} {i : Instr} (h : decode cw = .ok i) : encode i = cw := by
  obtain ⟨row, hrow, hsel, rfl⟩ := exists_row_of_decode h
  exact encode_build hrow hsel

theorem decode_encode (i : Instr) : decode (encode i) = .ok i := by
  cases i
  case dpush b => revert b; decide +kernel
  case rdskLow i j => revert i j; decide +kernel
  case rdskHigh i j => revert i j; decide +kernel
  case statLow sel => revert sel; decide +kernel
  all_goals rfl

/-- Settles O1: a row rebuilds the word it selects, and the decoder finds the row of every encoding. -/
theorem decodeIffEncode : Obligations.DecodeIffEncode :=
  fun _ i => ⟨encode_of_decode, fun h => h ▸ decode_encode i⟩

/-- Settles O4: each sample word is the encoding of its command. -/
theorem sampleWordsDecode : Obligations.SampleWordsDecode :=
  ⟨decode_encode .nop, decode_encode (.dpush 0x45), decode_encode .ldblk, decode_encode .ldkey, decode_encode .enc,
    decode_encode .dec, decode_encode .unld, decode_encode .dpop, decode_encode (.rdskLow 15 3),
    decode_encode (.rdskHigh 10 1), decode_encode (.statLow 1), decode_encode .statRc, decode_encode .init⟩

/-! The legal words (R90). -/

/-- The family `TableRow` for every command. -/
theorem tableRow (i : Instr) : Laws.TableRow.Statement i := by
  cases i
  case nop => exact Laws.TableRow.nop
  case dpush b => exact Laws.TableRow.dpush b
  case ldblk => exact Laws.TableRow.ldblk
  case ldkey => exact Laws.TableRow.ldkey
  case enc => exact Laws.TableRow.enc
  case dec => exact Laws.TableRow.dec
  case unld => exact Laws.TableRow.unld
  case dpop => exact Laws.TableRow.dpop
  case rdskLow i j => exact Laws.TableRow.rdskLow i j
  case rdskHigh i j => exact Laws.TableRow.rdskHigh i j
  case statLow sel => exact Laws.TableRow.statLow sel
  case statRc => exact Laws.TableRow.statRc
  case init => exact Laws.TableRow.init

theorem illegalWord_encode (i : Instr) : illegalWord (encode i) = false := by
  simpa [legalWord] using (tableRow i).2

theorem selected_rows_encode (i : Instr) : (opcodeRows.filter fun row => row.selects (encode i)).length = 1 := by
  have h := congrArg List.length (tableRow i).1
  rwa [List.length_map] at h

/-- The clauses of R90, field by field. -/
theorem illegalWord_eq_false_iff {cw : CmdWord} :
    illegalWord cw = false ↔ (cwOp cw).toNat < 0xA ∧ (cwOp cw ∈ plainOps → cwArg cw = 0 ∧ cwImm cw = 0)
      ∧ (cwOp cw = 0x1 → cwArg cw = 0) ∧ (cwOp cw = 0x4 → (cwArg cw).toNat < 2 ∧ cwImm cw = 0)
      ∧ (cwOp cw = 0x7 → (cwImm cw).toNat < 6) ∧ (cwOp cw = 0x8 → (cwArg cw).toNat < 3 ∧ cwImm cw = 0) := by
  simp [illegalWord, cwOp, cwArg, cwImm, and_assoc, imp_iff_not_or]

/-- The operations below 0xA: the six without operands, DPUSH, ENC and DEC, RDSK, STAT (R84). -/
theorem op_cases {op : BitVec 4} (h : op.toNat < 0xA) :
    op ∈ plainOps ∨ op = 0x1 ∨ op = 0x4 ∨ op = 0x7 ∨ op = 0x8 := by
  revert op
  decide

theorem exists_encode_of_plain {op : BitVec 4} (h : op ∈ plainOps) : ∃ i, encode i = assembleWord op 0 0 := by
  simp only [plainOps, List.mem_cons, List.not_mem_nil, or_false] at h
  obtain rfl | rfl | rfl | rfl | rfl | rfl := h
  · exact ⟨.nop, rfl⟩
  · exact ⟨.ldblk, rfl⟩
  · exact ⟨.ldkey, rfl⟩
  · exact ⟨.unld, rfl⟩
  · exact ⟨.dpop, rfl⟩
  · exact ⟨.init, rfl⟩

theorem exists_encode_of_direction {arg : BitVec 4} (h : arg.toNat < 2) : ∃ i, encode i = assembleWord 0x4 arg 0 := by
  obtain rfl | rfl : arg = 0 ∨ arg = 1 := by bv_omega
  · exact ⟨.enc, rfl⟩
  · exact ⟨.dec, rfl⟩

theorem exists_encode_of_lane (arg : BitVec 4) {imm : Byte} (h : imm.toNat < 6) :
    ∃ i, encode i = assembleWord 0x7 arg imm := by
  have hmask : imm &&& 0xFC = 0 ∨ imm &&& 0xFE = 4 := by
    revert imm
    decide
  obtain hlow | hhigh := hmask
  · exact ⟨.rdskLow arg (imm.setWidth 2), congrArg (assembleWord 0x7 arg) (lane_of_low hlow).symm⟩
  · exact ⟨.rdskHigh arg (imm.setWidth 1), congrArg (assembleWord 0x7 arg) (lane_of_high hhigh).symm⟩

theorem exists_encode_of_selector {arg : BitVec 4} (h : arg.toNat < 3) : ∃ i, encode i = assembleWord 0x8 arg 0 := by
  obtain rfl | rfl | rfl : arg = 0 ∨ arg = 1 ∨ arg = 2 := by bv_omega
  · exact ⟨.statLow 0, rfl⟩
  · exact ⟨.statLow 1, rfl⟩
  · exact ⟨.statRc, rfl⟩

/-- Every word that R90 does not list is the encoding of a command. -/
theorem exists_encode_of_legal {cw : CmdWord} (h : illegalWord cw = false) : ∃ i, encode i = cw := by
  obtain ⟨hlt, hplain, hpush, hstart, hlane, hsel⟩ := illegalWord_eq_false_iff.1 h
  rw [← assembleWord_fields cw]
  obtain hop | hop | hop | hop | hop := op_cases hlt
  · obtain ⟨harg, himm⟩ := hplain hop
    rw [harg, himm]
    exact exists_encode_of_plain hop
  · rw [hop, hpush hop]
    exact ⟨.dpush (cwImm cw), rfl⟩
  · obtain ⟨harg, himm⟩ := hstart hop
    rw [hop, himm]
    exact exists_encode_of_direction harg
  · rw [hop]
    exact exists_encode_of_lane _ (hlane hop)
  · obtain ⟨harg, himm⟩ := hsel hop
    rw [hop, himm]
    exact exists_encode_of_selector harg

theorem exists_decode_of_legal {cw : CmdWord} (h : illegalWord cw = false) : ∃ i, decode cw = .ok i := by
  obtain ⟨i, rfl⟩ := exists_encode_of_legal h
  exact ⟨i, decode_encode i⟩

theorem decode_of_illegalWord {cw : CmdWord} (h : illegalWord cw = true) : decode cw = .error .illegalCommand := by
  cases hd : decode cw with
  | error e => cases e; rfl
  | ok i => simp [← encode_of_decode hd, illegalWord_encode] at h

theorem decode_error_iff {cw : CmdWord} : decode cw = .error .illegalCommand ↔ illegalWord cw = true := by
  refine ⟨fun h => ?_, decode_of_illegalWord⟩
  by_contra hlegal
  obtain ⟨i, hi⟩ := exists_decode_of_legal (Bool.eq_false_of_not_eq_true hlegal)
  simp [hi] at h

/-- Settles O2: the encodings are the legal words, so the decoder refuses the others; an illegal word in READY mode is a
fault entry. -/
theorem illegalWordsAreTheListedOnes : Obligations.IllegalWordsAreTheListedOnes := by
  refine ⟨fun cw => decode_error_iff, fun cw s hcw hm => ?_⟩
  rw [acceptWord_illegal (decode_of_illegalWord hcw), illegalWordStep_eq, if_pos hm]
  rfl

/-- A row that selects a word makes it legal. -/
theorem not_selects_of_illegalWord {cw : CmdWord} (h : illegalWord cw = true) {row : OpcodeRow}
    (hrow : row ∈ opcodeRows) : ¬ row.selects cw = true := fun hsel => by
  have hlegal := illegalWord_encode (row.build cw)
  rw [encode_build hrow hsel, h] at hlegal
  cases hlegal

/-- Settles O3: a legal word is an encoding, which one row selects, and a row selects legal words only. -/
theorem rowsSelectTheLegalWords : Obligations.RowsSelectTheLegalWords := by
  intro cw
  cases h : illegalWord cw with
  | true =>
    rw [List.filter_eq_nil_iff.2 fun row => not_selects_of_illegalWord h]
    rfl
  | false =>
    obtain ⟨i, rfl⟩ := exists_encode_of_legal h
    exact selected_rows_encode i

end Sys2Proof.Machine
end

section
/-! PROOFS. The invariant of reachable states (10_state.md R45): each write of the machine keeps it, so
every step does; and no step from a state that meets it stops the model. -/

namespace Sys2Proof.Machine

/-! The invariant and the single writes. -/

/-- The port fields are no part of the invariant. -/
theorem State.Inv.setPort {s : State} (h : s.Inv) (rsp : Option CmdWord) (input : List PortEvent) :
    { s with rsp := rsp, input := input }.Inv := { h with }

theorem State.Inv.beginEdge {s : State} (h : s.Inv) (rest : List PortEvent) : (s.beginEdge rest).Inv :=
  h.setPort none rest

theorem State.Inv.respond {s : State} (h : s.Inv) (v : CmdWord) : (s.respond v).Inv := h.setPort (some v) s.input

/-- A fault is entered by an idle core only (R263). -/
theorem State.Inv.raise {s : State} (h : s.Inv) (hb : s.busy = false) (c : FaultCode) (cw : CmdWord) :
    (s.raise c cw).Inv :=
  { h with
    err_le := c.code_le_five
    busy_err := by simp [hb]
    err_ecmd := by simp }

theorem State.Inv.resetRegs (s : State) : s.resetRegs.Inv := by
  constructor <;> simp

theorem State.Inv.dpush {s : State} (h : s.Inv) (b : Byte) : (effectOf (.dpush b) s).Inv :=
  { h with dcnt_le := by simp [effectOf] }

theorem State.Inv.ldblk {s : State} (h : s.Inv) : (effectOf .ldblk s).Inv :=
  { h with
    dcnt_le := by simp [effectOf]
    busy_bv := fun _ => rfl }

/-- LDKEY derives the subkeys of the key it loads (R121). -/
theorem State.Inv.ldkey {s : State} (h : s.Inv) : (effectOf .ldkey s).Inv :=
  { h with
    dcnt_le := by simp [effectOf]
    busy_kv := fun _ => rfl
    subkeys := fun _ => get_deriveSubkeys s.dsr }

theorem faultOf_enc_eq_none_iff {s : State} : faultOf .enc s = none ↔ s.kv = true ∧ s.bv = true := by
  cases hk : s.kv <;> cases hv : s.bv <;> simp [faultOf, hk, hv]

/-- A transform starts from a core without a fault that has a key and a block (R174). -/
theorem State.Inv.startTransform {s : State} (h : s.Inv) (he : s.err = 0) (hf : faultOf .enc s = none) (d : Direction) :
    (s.startTransform d).Inv := by
  obtain ⟨hk, hv⟩ := faultOf_enc_eq_none_iff.1 hf
  exact { h with
    rc_le := by simp
    busy_kv := fun _ => hk
    busy_bv := fun _ => hv
    busy_err := fun _ => he
    idle_rc := by simp }

theorem State.Inv.unld {s : State} (h : s.Inv) : (effectOf .unld s).Inv :=
  { h with scnt_le := by simp [effectOf] }

theorem State.Inv.dpop {s : State} (h : s.Inv) (hf : faultOf .dpop s = none) : (effectOf .dpop s).Inv := by
  have hc : s.scnt ≠ 0 := by simpa [faultOf] using hf
  have hpos : 0 < s.scnt.toNat := by bv_omega
  have hle := h.scnt_le
  exact { h with scnt_le := by rw [toNat_effectOf_dpop_scnt hpos]; omega }

theorem State.Inv.engineRound {s : State} (h : s.Inv) (hb : s.busy = true) (hlt : s.rc.toNat < 16) (t : Tables) :
    (engineRound t s).Inv :=
  { h with
    rc_le := by rw [engineRound_rc]; bv_omega
    idle_rc := by simp [hb] }

theorem State.Inv.engineFinal {s : State} (h : s.Inv) (hrc : s.rc = 16) : (engineFinal s).Inv :=
  { h with
    busy_kv := by simp
    busy_bv := by simp
    busy_err := by simp
    idle_rc := fun _ => .inr hrc }

/-! Commands and clock edges. -/

/-- A command that raises no fault keeps the invariant; the commands of FAULT mode keep it there too. -/
theorem State.Inv.effectOf {i : Instr} {s : State} (h : s.Inv) (hf : faultOf i s = none)
    (hm : s.err = 0 ∨ runsInFaultMode i = true) : (effectOf i s).Inv := by
  cases i
  case nop => exact h
  case dpush b => exact h.dpush b
  case ldblk => exact h.ldblk
  case ldkey => exact h.ldkey
  case enc => exact h.startTransform (hm.resolve_right nofun) hf .enc
  case dec => exact h.startTransform (hm.resolve_right nofun) hf .dec
  case unld => exact h.unld
  case dpop => exact h.dpop hf
  case rdskLow i j => exact h.respond _
  case rdskHigh i j => exact h.respond _
  case statLow sel => exact h.respond _
  case statRc => exact h.respond _
  case init => exact State.Inv.resetRegs s

theorem State.Inv.exec {i : Instr} {s t : State} (h : s.Inv) (ht : exec i s = .next t) : t.Inv := by
  obtain ⟨hm, c, _, rfl⟩ | ⟨hm, hf, rfl⟩ | ⟨_, hi, rfl⟩ | ⟨_, rfl⟩ := exec_cases ht
  · exact h.raise ((State.mode_ready_iff s).1 hm).1 c _
  · exact h.effectOf hf (.inl ((State.mode_ready_iff s).1 hm).2)
  · exact h.effectOf (faultOf_of_runsInFaultMode hi s) (.inr hi)
  · exact h

theorem State.Inv.illegalWordStep {cw : CmdWord} {s t : State} (h : s.Inv) (ht : illegalWordStep cw s = .next t) :
    t.Inv := by
  rw [illegalWordStep_eq] at ht
  cases ht
  split
  · next hm => exact h.raise ((State.mode_ready_iff s).1 hm).1 _ cw
  · exact h

theorem State.Inv.engineStep {t : Tables} {s u : State} (h : s.Inv) (hb : s.busy = true)
    (hu : engineStep t s = .next u) : u.Inv := by
  obtain ⟨hlt, rfl⟩ | ⟨hrc, rfl⟩ := engineStep_cases hu
  · exact h.engineRound hb hlt t
  · exact h.engineFinal hrc

theorem State.Inv.clockEdge {t : Tables} {s u : State} (h : s.Inv) (hu : clockEdge t s = .next u) : u.Inv := by
  obtain ⟨rest, _, rfl⟩ | ⟨hb, _, hstep⟩ | ⟨_, _, rest, _, _, _, hexec⟩ | ⟨_, _, rest, _, _, _, hill⟩
    | ⟨_, rest, rfl⟩ := clockEdge_cases hu
  · exact State.Inv.resetRegs _
  · exact (h.beginEdge _).engineStep hb hstep
  · exact (h.beginEdge rest).exec hexec
  · exact (h.beginEdge rest).illegalWordStep hill
  · exact h.beginEdge rest

/-- Settles O48: a step is a clock edge under the built-in tables, and every kind of edge keeps the invariant. -/
theorem stepKeepsTheInvariant : Obligations.StepKeepsTheInvariant := fun _ _ => State.Inv.clockEdge

/-- Settles O47: every clause holds of cleared counters and flags. -/
theorem resetStateMeetsTheInvariant : Obligations.ResetStateMeetsTheInvariant := by
  constructor <;> simp [State.reset]

/-! Progress (R178, R305). -/

/-- An idle core with nothing presented, or at an idle event: the edge begins and nothing happens (log entry 2). -/
theorem clockEdge_nil (t : Tables) {s : State} (hb : s.busy = false) (h : s.input = []) :
    clockEdge t s = .next (s.beginEdge []) := by simp [clockEdge, h, hb]

theorem clockEdge_idle (t : Tables) {s : State} {rest : List PortEvent} (hb : s.busy = false)
    (h : s.input = .idle :: rest) : clockEdge t s = .next (s.beginEdge rest) := by simp [clockEdge, h, hb]

theorem exists_acceptWord_next (cw : CmdWord) (s : State) : ∃ t, acceptWord cw s = .next t := by
  cases hd : decode cw with
  | ok i =>
    rw [acceptWord_ok hd]
    exact exec_next i s
  | error e =>
    rw [acceptWord_illegal hd]
    exact ⟨_, illegalWordStep_eq cw s⟩

theorem exists_engineStep_next (t : Tables) {s : State} (h : s.rc.toNat ≤ 16) : ∃ u, engineStep t s = .next u := by
  obtain hlt | heq := Nat.lt_or_eq_of_le h
  · exact ⟨_, engineStep_of_lt t hlt⟩
  · exact ⟨_, engineStep_of_eq t (BitVec.eq_of_toNat_eq heq)⟩

theorem exists_clockEdge_next (t : Tables) {s : State} (h : s.Inv) : ∃ u, clockEdge t s = .next u := by
  by_cases hr : s.input.head? = some .rst
  · obtain ⟨rest, hi⟩ := List.head?_eq_some_iff.1 hr
    exact ⟨_, clockEdge_rst t hi⟩
  cases hb : s.busy with
  | true =>
    rw [clockEdge_busy t hb hr]
    exact exists_engineStep_next t h.rc_le
  | false =>
    cases hi : s.input with
    | nil => exact ⟨_, clockEdge_nil t hb hi⟩
    | cons e rest =>
      cases e with
      | cmd cw =>
        rw [clockEdge_cmd t hb hi]
        exact exists_acceptWord_next cw _
      | idle => exact ⟨_, clockEdge_idle t hb hi⟩
      | rst => simp [hi] at hr

/-- Settles O49: the invariant's bound on `RC` leaves the engine no stuck state, and no other edge can stop. -/
theorem stepNeverStops : Obligations.StepNeverStops := fun _ => exists_clockEdge_next Config.tables

end Sys2Proof.Machine
end

section
/-! PROOFS. Unspecified registers are not observed (10_state.md R36, R50): states that agree on all that a guard lets
a rule read take the same branch of every rule, and the registers written there agree again. -/

namespace Sys2Proof.Machine

section
variable {s t : State}

/-! Agreement and the single writes. -/

theorem State.Agree.mode_eq (h : s.Agree t) : s.mode = t.mode := by rw [State.mode, State.mode, h.busy, h.err]

theorem State.Agree.status_eq (h : s.Agree t) : s.status = t.status := by
  rw [State.status, State.status, h.err, h.kv, h.bv, h.busy, h.dir, h.scnt, h.dcnt]

theorem State.Agree.faultOf_eq (h : s.Agree t) (i : Instr) : faultOf i s = faultOf i t := by
  cases i
  case nop | dpush | statLow | statRc | init => rfl
  all_goals simp only [faultOf, h.dcnt, h.scnt, h.kv, h.bv]

theorem State.Agree.beginEdge (h : s.Agree t) (rest : List PortEvent) : (s.beginEdge rest).Agree (t.beginEdge rest) :=
  { h with
    rsp := rfl
    input := rfl }

theorem State.Agree.respond (h : s.Agree t) {v w : CmdWord} (hvw : v = w) : (s.respond v).Agree (t.respond w) :=
  { h with rsp := congrArg some hvw }

theorem State.Agree.raise (h : s.Agree t) (c : FaultCode) (cw : CmdWord) : (s.raise c cw).Agree (t.raise c cw) :=
  { h with
    err := rfl
    ecmd := rfl }

/-- After INIT or a reset step every guard is closed, whatever is left in the data registers (R50). -/
theorem State.Agree.resetRegs (h : s.Agree t) : s.resetRegs.Agree t.resetRegs := by
  constructor <;> simp [State.pushedBits, h.rsp, h.input]

/-- A pushed byte joins the pushed bits, and the others move up (R102). -/
theorem State.Agree.dpush (h : s.Agree t) (b : Byte) : (effectOf (.dpush b) s).Agree (effectOf (.dpush b) t) :=
  { h with
    dcnt := congrArg dcntAfterPush h.dcnt
    dsr := fun hle n hn => by
      have hcount : (effectOf (.dpush b) s).dcnt.toNat = min (s.dcnt.toNat + 1) 9 := toNat_dcntAfterPush s.dcnt
      rw [State.pushedBits] at hn
      change ((s.dsr <<< 8) ||| b.setWidth 64).getLsbD n = ((t.dsr <<< 8) ||| b.setWidth 64).getLsbD n
      rw [getLsbD_push s.dsr b (by omega), getLsbD_push t.dsr b (by omega)]
      split
      · rfl
      · exact h.dsr (by omega) (n - 8) (by rw [State.pushedBits]; omega) }

/-- With eight bytes pushed every bit of `DSR` is one of theirs. -/
theorem State.Agree.dsr_eq (h : s.Agree t) (hc : s.dcnt = 8) : s.dsr = t.dsr :=
  BitVec.eq_of_getLsbD_eq fun n hn => h.dsr (by simp [hc]) n (by simpa [State.pushedBits, hc] using hn)

theorem State.Agree.ldblk (h : s.Agree t) (hc : s.dcnt = 8) : (effectOf .ldblk s).Agree (effectOf .ldblk t) :=
  { h with
    dcnt := rfl
    bv := rfl
    blk := fun _ => h.dsr_eq hc
    dsr := fun _ n hn => by simp [effectOf, State.pushedBits] at hn }

theorem State.Agree.ldkey (h : s.Agree t) (hc : s.dcnt = 8) : (effectOf .ldkey s).Agree (effectOf .ldkey t) :=
  { h with
    dcnt := rfl
    kv := rfl
    key := fun _ => h.dsr_eq hc
    sk := fun _ => congrArg deriveSubkeys (h.dsr_eq hc)
    dsr := fun _ n hn => by simp [effectOf, State.pushedBits] at hn }

theorem State.Agree.startTransform (h : s.Agree t) (hv : s.bv = true) (d : Direction) :
    (s.startTransform d).Agree (t.startTransform d) :=
  { h with
    dir := rfl
    rc := rfl
    busy := rfl
    l := fun _ => congrArg (fun b => (entryHalves b).1) (h.blk hv)
    r := fun _ => congrArg (fun b => (entryHalves b).2) (h.blk hv) }

theorem State.Agree.unld (h : s.Agree t) (hv : s.bv = true) : (effectOf .unld s).Agree (effectOf .unld t) :=
  { h with
    scnt := rfl
    ssr := fun _ => h.blk hv }

theorem State.Agree.dpop (h : s.Agree t) (hc : s.scnt ≠ 0) : (effectOf .dpop s).Agree (effectOf .dpop t) :=
  { h with
    scnt := congrArg (· - 1) h.scnt
    rsp := congrArg (fun v => some ((blockByte v 0).setWidth 16)) (h.ssr hc)
    ssr := fun _ => congrArg (fun v : Block => v <<< 8) (h.ssr hc) }

theorem State.Agree.engineRound (h : s.Agree t) (hb : s.busy = true) (hk : s.kv = true) (tb : Tables) :
    (engineRound tb s).Agree (engineRound tb t) :=
  { h with
    rc := congrArg (· + 1) h.rc
    l := fun _ => h.r hb
    r := fun _ => by
      rw [engineRound_r, engineRound_r, h.l hb, h.r hb, h.sk hk, h.dir, h.rc] }

theorem State.Agree.engineFinal (h : s.Agree t) (hb : s.busy = true) : (engineFinal s).Agree (engineFinal t) :=
  { h with
    busy := rfl
    blk := fun _ => by rw [engineFinal_blk, engineFinal_blk, h.l hb, h.r hb]
    l := by simp
    r := by simp }

/-! Commands and clock edges. -/

theorem State.Agree.effectOf (h : s.Agree t) {i : Instr} (hf : faultOf i s = none) :
    (effectOf i s).Agree (effectOf i t) := by
  cases i
  case nop => exact h
  case dpush b => exact h.dpush b
  case ldblk => exact h.ldblk (by simpa [faultOf] using hf)
  case ldkey => exact h.ldkey (by simpa [faultOf] using hf)
  case enc => exact h.startTransform (faultOf_enc_eq_none_iff.1 hf).2 .enc
  case dec => exact h.startTransform (faultOf_enc_eq_none_iff.1 hf).2 .dec
  case unld => exact h.unld (by simpa [faultOf] using hf)
  case dpop => exact h.dpop (by simpa [faultOf] using hf)
  case rdskLow i j => exact h.respond (by rw [h.sk (by simpa [faultOf] using hf)])
  case rdskHigh i j => exact h.respond (by rw [h.sk (by simpa [faultOf] using hf)])
  case statLow sel => exact h.respond (by rw [h.status_eq, h.ecmd])
  case statRc => exact h.respond (by rw [h.rc])
  case init => exact h.resetRegs

theorem State.Agree.exec (h : s.Agree t) (i : Instr) : AgreeOut (exec i s) (exec i t) := by
  cases hm : s.mode
  case ready =>
    rw [exec_ready_eq i hm, exec_ready_eq i (h.mode_eq ▸ hm), ← h.faultOf_eq i]
    cases hf : faultOf i s with
    | none => exact h.effectOf hf
    | some c => exact h.raise c (encode i)
  case fault =>
    rw [exec_fault_eq i hm, exec_fault_eq i (h.mode_eq ▸ hm)]
    cases hi : runsInFaultMode i with
    | true => exact h.effectOf (faultOf_of_runsInFaultMode hi s)
    | false => exact h
  case busy =>
    have hb := (State.mode_busy_iff s).1 hm
    rw [exec_busy_eq i hb, exec_busy_eq i (h.busy ▸ hb)]
    exact h

theorem State.Agree.illegalWordStep (h : s.Agree t) (cw : CmdWord) :
    AgreeOut (illegalWordStep cw s) (illegalWordStep cw t) := by
  rw [illegalWordStep_eq, illegalWordStep_eq, ← h.mode_eq]
  split
  · exact h.raise .illegalCommand cw
  · exact h

theorem State.Agree.acceptWord (h : s.Agree t) (cw : CmdWord) : AgreeOut (acceptWord cw s) (acceptWord cw t) := by
  cases hd : decode cw with
  | ok i => simpa only [acceptWord_ok hd] using h.exec i
  | error e => simpa only [acceptWord_illegal hd] using h.illegalWordStep cw

/-- While `BUSY = 1` the invariant gives the key that a round reads (R45). -/
theorem State.Agree.engineStep (h : s.Agree t) (hs : s.Inv) (hb : s.busy = true) (tb : Tables) :
    AgreeOut (engineStep tb s) (engineStep tb t) := by
  obtain hlt | heq := Nat.lt_or_eq_of_le hs.rc_le
  · rw [engineStep_of_lt tb hlt, engineStep_of_lt tb (h.rc ▸ hlt)]
    exact h.engineRound hb (hs.busy_kv hb) tb
  · have hrc : s.rc = 16 := BitVec.eq_of_toNat_eq heq
    rw [engineStep_of_eq tb hrc, engineStep_of_eq tb (h.rc ▸ hrc)]
    exact h.engineFinal hb

/-- Settles O50: agreeing states take the same kind of edge, and each kind keeps the agreement. -/
theorem unspecifiedRegistersAreUnobservable : Obligations.UnspecifiedRegistersAreUnobservable := by
  intro tb s t hs h
  by_cases hr : s.input.head? = some .rst
  · obtain ⟨rest, hi⟩ := List.head?_eq_some_iff.1 hr
    rw [clockEdge_rst tb hi, clockEdge_rst tb (h.input ▸ hi)]
    exact (h.beginEdge rest).resetRegs
  cases hb : s.busy with
  | true =>
    rw [clockEdge_busy tb hb hr, clockEdge_busy tb (h.busy ▸ hb) (h.input ▸ hr), ← h.input]
    exact (h.beginEdge _).engineStep (hs.beginEdge _) hb tb
  | false =>
    have hbt : t.busy = false := h.busy ▸ hb
    cases hi : s.input with
    | nil =>
      have hit : t.input = [] := h.input ▸ hi
      rw [clockEdge_nil tb hb hi, clockEdge_nil tb hbt hit]
      exact h.beginEdge []
    | cons e rest =>
      have hit : t.input = e :: rest := h.input ▸ hi
      cases e with
      | cmd cw =>
        rw [clockEdge_cmd tb hb hi, clockEdge_cmd tb hbt hit]
        exact (h.beginEdge rest).acceptWord cw
      | idle =>
        rw [clockEdge_idle tb hb hi, clockEdge_idle tb hbt hit]
        exact h.beginEdge rest
      | rst => simp [hi] at hr

end

end Sys2Proof.Machine
end

section
/-! PROOFS. The registers each command leaves as they were (10_state.md R51), the fault it raises (60_exceptions.md
R250, R260), and the operating modes (R280). -/

namespace Sys2Proof.Machine

/-! The columns of R51: what the effect of a command leaves unchanged. -/

section
variable {i : Instr} (s : State)

theorem effectOf_key (hk : i ≠ .ldkey) (hi : i ≠ .init) :
    (effectOf i s).key = s.key ∧ (effectOf i s).sk = s.sk ∧ (effectOf i s).kv = s.kv := by
  cases i
  case ldkey => exact absurd rfl hk
  case init => exact absurd rfl hi
  all_goals exact ⟨rfl, rfl, rfl⟩

theorem effectOf_blk (hb : i ≠ .ldblk) (hi : i ≠ .init) :
    (effectOf i s).blk = s.blk ∧ (effectOf i s).bv = s.bv := by
  cases i
  case ldblk => exact absurd rfl hb
  case init => exact absurd rfl hi
  all_goals exact ⟨rfl, rfl⟩

theorem effectOf_engineRegs (he : i ≠ .enc) (hd : i ≠ .dec) (hi : i ≠ .init) :
    (effectOf i s).l = s.l ∧ (effectOf i s).r = s.r ∧ (effectOf i s).dir = s.dir ∧ (effectOf i s).rc = s.rc
      ∧ (effectOf i s).busy = s.busy := by
  cases i
  case enc => exact absurd rfl he
  case dec => exact absurd rfl hd
  case init => exact absurd rfl hi
  all_goals exact ⟨rfl, rfl, rfl, rfl, rfl⟩

theorem effectOf_dsr (hp : ∀ b, i ≠ .dpush b) (hi : i ≠ .init) : (effectOf i s).dsr = s.dsr := by
  cases i
  case dpush b => exact absurd rfl (hp b)
  case init => exact absurd rfl hi
  all_goals rfl

theorem effectOf_dcnt (hp : ∀ b, i ≠ .dpush b) (hb : i ≠ .ldblk) (hk : i ≠ .ldkey) (hi : i ≠ .init) :
    (effectOf i s).dcnt = s.dcnt := by
  cases i
  case dpush b => exact absurd rfl (hp b)
  case ldblk => exact absurd rfl hb
  case ldkey => exact absurd rfl hk
  case init => exact absurd rfl hi
  all_goals rfl

theorem effectOf_serializer (hu : i ≠ .unld) (hd : i ≠ .dpop) (hi : i ≠ .init) :
    (effectOf i s).ssr = s.ssr ∧ (effectOf i s).scnt = s.scnt := by
  cases i
  case unld => exact absurd rfl hu
  case dpop => exact absurd rfl hd
  case init => exact absurd rfl hi
  all_goals exact ⟨rfl, rfl⟩

theorem effectOf_faultRegs (hi : i ≠ .init) : (effectOf i s).err = s.err ∧ (effectOf i s).ecmd = s.ecmd := by
  cases i
  case init => exact absurd rfl hi
  all_goals exact ⟨rfl, rfl⟩

theorem effectOf_freeCtr (hi : i ≠ .init) : (effectOf i s).freeCtr = s.freeCtr := by
  cases i
  case init => exact absurd rfl hi
  all_goals rfl

variable (i)

theorem effectOf_input : (effectOf i s).input = s.input := by cases i <;> rfl

/-- No effect records a fault: INIT clears `ERR`, the others leave it (R260, R264). -/
theorem effectOf_err {s : State} (he : s.err = 0) : (effectOf i s).err = 0 := by
  by_cases hi : i = .init
  · subst hi
    rfl
  · exact (effectOf_faultRegs s hi).1.trans he

/-- The operating mode after a command's effect (R280). -/
theorem effectOf_mode_cases :
    (effectOf i s).mode = s.mode ∨ ((i = .enc ∨ i = .dec) ∧ (effectOf i s).mode = .busy)
      ∨ (i = .init ∧ (effectOf i s).mode = .ready) := by
  cases i
  case enc => exact .inr (.inl ⟨.inl rfl, rfl⟩)
  case dec => exact .inr (.inl ⟨.inr rfl, rfl⟩)
  case init => exact .inr (.inr ⟨rfl, rfl⟩)
  all_goals exact .inl rfl

end

/-- `KV` and `BV` are set by LDKEY and LDBLK and cleared by INIT alone (R28, R29). -/
theorem effectOf_validFlags {i : Instr} (hi : i ≠ .init) (s : State) :
    (s.kv = true → (effectOf i s).kv = true) ∧ (s.bv = true → (effectOf i s).bv = true) := by
  refine ⟨fun hkv => ?_, fun hbv => ?_⟩
  · by_cases hk : i = .ldkey
    · subst hk
      rfl
    · exact (effectOf_key s hk hi).2.2.trans hkv
  · by_cases hb : i = .ldblk
    · subst hb
      rfl
    · exact (effectOf_blk s hb hi).2.trans hbv

/-- All that a command can do, whatever the mode: raise its fault, have its whole effect, or nothing. -/
theorem exec_effect_cases {i : Instr} {s t : State} (h : exec i s = .next t) :
    (s.mode = .ready ∧ ∃ c, faultOf i s = some c ∧ t = s.raise c (encode i))
      ∨ (faultOf i s = none ∧ t = effectOf i s) ∨ (s.mode ≠ .ready ∧ t = s) := by
  obtain hfault | ⟨_, hf, ht⟩ | ⟨_, hi, ht⟩ | hsame := exec_cases h
  · exact .inl hfault
  · exact .inr (.inl ⟨hf, ht⟩)
  · exact .inr (.inl ⟨faultOf_of_runsInFaultMode hi s, ht⟩)
  · exact .inr (.inr hsame)

/-- Settles O26: a fault entry writes `ERR` and `ECMD`, an effect its own columns, and a dropped command nothing. -/
theorem commandsWriteOnlyTheirColumns : Obligations.CommandsWriteOnlyTheirColumns := by
  intro i s t h
  obtain ⟨hm, c, hf, rfl⟩ | ⟨hf, rfl⟩ | ⟨hm, rfl⟩ := exec_effect_cases h
  · exact ⟨fun _ _ => ⟨rfl, rfl, rfl⟩, fun _ _ => ⟨rfl, rfl⟩, fun _ _ _ => ⟨rfl, rfl, rfl, rfl, rfl⟩, fun _ _ => rfl,
      fun _ _ _ _ => rfl, fun _ _ _ => ⟨rfl, rfl⟩, fun hno => absurd hno (by simp [hm, hf]), fun _ _ => rfl,
      fun _ => rfl, fun _ => rfl, rfl⟩
  · exact ⟨effectOf_key s, effectOf_blk s, effectOf_engineRegs s, effectOf_dsr s, effectOf_dcnt s,
      effectOf_serializer s, fun _ => effectOf_faultRegs s, fun _ hne => absurd hf hne,
      effectOf_rsp s, effectOf_freeCtr s, effectOf_input i s⟩
  · exact ⟨fun _ _ => ⟨rfl, rfl, rfl⟩, fun _ _ => ⟨rfl, rfl⟩, fun _ _ _ => ⟨rfl, rfl, rfl, rfl, rfl⟩, fun _ _ => rfl,
      fun _ _ _ _ => rfl, fun _ _ _ => ⟨rfl, rfl⟩, fun _ _ => ⟨rfl, rfl⟩, fun hr => absurd hr hm, fun _ => rfl,
      fun _ => rfl, rfl⟩

/-! Fault entry (R250, R260). -/

/-- Settles O22: the first failing precondition is raised; otherwise the effect leaves `ERR` at 0. -/
theorem faultsAreThoseListed : Obligations.FaultsAreThoseListed :=
  fun i _ hm => ⟨fun _ hf => exec_eq_raise hm hf,
    fun hf => ⟨_, exec_eq_effectOf hm hf, effectOf_err i ((State.mode_ready_iff _).1 hm).2⟩⟩

/-- A word accepted in READY mode after which a fault is recorded was a fault entry, and nothing else. -/
theorem acceptWord_ready_fault {cw : CmdWord} {s t : State} (hm : s.mode = .ready) (h : acceptWord cw s = .next t)
    (he : t.err ≠ 0) : ∃ c, t = s.raise c cw := by
  cases hd : decode cw with
  | error e =>
    rw [acceptWord_illegal hd, illegalWordStep_eq, if_pos hm] at h
    cases h
    exact ⟨_, rfl⟩
  | ok i =>
    rw [acceptWord_ok hd] at h
    cases hf : faultOf i s with
    | some c =>
      rw [exec_eq_raise hm hf, encode_of_decode hd] at h
      cases h
      exact ⟨c, rfl⟩
    | none =>
      rw [exec_eq_effectOf hm hf] at h
      cases h
      exact absurd (effectOf_err i ((State.mode_ready_iff s).1 hm).2) he

/-- Settles O23: the only way to a recorded fault is the fault entry, with a code in 1..5. -/
theorem faultEntryIsPrecise : Obligations.FaultEntryIsPrecise := by
  intro cw s t hm h he
  obtain ⟨c, rfl⟩ := acceptWord_ready_fault hm h he
  exact ⟨Nat.one_le_iff_ne_zero.2 fun h0 => he (BitVec.eq_of_toNat_eq h0), c.code_le_five, rfl⟩

end Sys2Proof.Machine
end

section
/-! PROOFS. The clock edge (10_state.md R40, R41, 30_encoding.md R81, 60_exceptions.md R280): what each kind of edge
does to the port, the flags and the operating mode. -/

namespace Sys2Proof.Machine

/-! The kinds of edge (R40, R81, R290). -/

/-- Settles O5: an idle core accepts the word presented. -/
theorem stepRunsTheDecodedCommand : Obligations.StepRunsTheDecodedCommand :=
  fun _ _ _ _ hb hi hd => (clockEdge_cmd Config.tables hb hi).trans (acceptWord_ok hd _)

/-- An edge after which the host does what it did before lowers the response port only. -/
theorem State.beginEdge_same {s : State} {rest : List PortEvent} (h : s.input = rest) :
    s.beginEdge rest = { s with rsp := none } := h ▸ rfl

/-- Settles O6: without a reset event the edge of a busy core is the engine step, after which the host goes on as it
was, but for an idle event. -/
theorem busyHoldsTheWord : Obligations.BusyHoldsTheWord := by
  intro s hb
  refine ⟨fun cw rest hi => ?_, fun rest hi => ?_, fun hi => ?_⟩ <;>
    rw [step, clockEdge_busy _ hb (by simp [hi])] <;> simp [State.beginEdge, inputAfterHold, hi]

/-- Settles O7, by the edges of an idle core. -/
theorem quietEdgeKeepsTheState : Obligations.QuietEdgeKeepsTheState :=
  ⟨fun _ hb hi => (clockEdge_nil _ hb hi).trans (congrArg _ (State.beginEdge_same hi)),
    fun _ _ hb hi => clockEdge_idle _ hb hi⟩

/-- Settles O8: a reset event closes the port and makes the edge a reset step. -/
theorem resetStepClearsTheFlags : Obligations.ResetStepClearsTheFlags := by
  intro s rest hi
  refine ⟨by simp [State.cmdReady, State.rstPin, hi], _, clockEdge_rst _ hi, rfl, rfl, rfl, rfl, rfl, rfl, rfl, rfl,
    rfl, rfl, rfl, rfl, rfl, rfl, fun hr => ?_⟩
  exact State.cmdReady_of_not_busy rfl (by simpa [State.rstPin] using hr)

theorem State.Agree.refl (s : State) : s.Agree s := by constructor <;> intros <;> rfl

/-- INIT on an idle core, in READY or in FAULT mode. -/
theorem exec_init {s : State} (hb : s.busy = false) : exec .init s = .next s.resetRegs :=
  State.inReadyOrFault_of_not_busy hb fun s => .next s.resetRegs

theorem clockEdge_init (t : Tables) {s : State} {rest : List PortEvent} (hb : s.busy = false)
    (hi : s.input = .cmd (encode .init) :: rest) : clockEdge t s = .next (s.beginEdge rest).resetRegs := by
  rw [clockEdge_cmd t hb hi, acceptWord_ok (decode_encode .init)]
  exact exec_init (s := s.beginEdge rest) hb

/-- Settles O9: both edges make the writes of R50. -/
theorem initEndsLikeReset : Obligations.InitEndsLikeReset := fun s rest hb =>
  ⟨_, _, clockEdge_init _ (s := { s with input := .cmd 0x9000 :: rest }) hb rfl, clockEdge_rst _ rfl,
    State.Agree.refl _⟩

/-- Settles O10, by the fields of the state after reset. -/
theorem resetStateIsAsListed : Obligations.ResetStateIsAsListed :=
  ⟨rfl, rfl, rfl, rfl, rfl, rfl, rfl, rfl, rfl, rfl, rfl, rfl, rfl, rfl, rfl⟩

/-! A running transform (R51, R301). -/

/-- Settles O27: the edge is the engine step, which is ROUND or FINAL. -/
theorem runningTransformWritesOnlyItsOwn : Obligations.RunningTransformWritesOnlyItsOwn := by
  intro tb s t hb hr h
  rw [clockEdge_busy tb hb hr] at h
  obtain ⟨hlt, rfl⟩ | ⟨hrc, rfl⟩ := engineStep_cases h
  · refine ⟨rfl, rfl, rfl, rfl, rfl, rfl, rfl, rfl, rfl, rfl, rfl, rfl, rfl, fun _ => ⟨rfl, hb⟩, fun hrc => ?_⟩
    rw [State.beginEdge_rc, hrc] at hlt
    exact absurd hlt (by decide)
  · refine ⟨rfl, rfl, rfl, rfl, rfl, rfl, rfl, rfl, rfl, rfl, rfl, rfl, rfl, fun hlt => ?_, fun _ => ⟨rfl, rfl, rfl⟩⟩
    rw [State.beginEdge_rc] at hrc
    exact absurd hlt (by simp [hrc])

/-! The flags and the response port (R28, R29, R41). -/

/-- Settles O28: an edge that is no reset step and accepts no INIT sets the valid flags or leaves them. -/
theorem validFlagsFallOnlyAtInit : Obligations.ValidFlagsFallOnlyAtInit := by
  intro tb s t h hr hinit
  obtain ⟨rest, hi, _⟩ | ⟨hb, _, _⟩ | ⟨_, cw, rest, i, hi, hd, hexec⟩ | ⟨_, cw, rest, e, _, _, hill⟩ | ⟨_, rest, rfl⟩ :=
    clockEdge_cases h
  · simp [hi] at hr
  · obtain ⟨_, _, _, _, _, _, _, hkv, hbv, _⟩ := runningTransformWritesOnlyItsOwn tb s t hb hr h
    exact ⟨hkv.trans, hbv.trans⟩
  · have hne : i ≠ .init := by
      rintro rfl
      exact hinit (by rw [hi, eq_of_decode_init hd]; rfl)
    obtain ⟨_, _, _, rfl⟩ | ⟨_, rfl⟩ | ⟨_, rfl⟩ := exec_effect_cases hexec
    · exact ⟨id, id⟩
    · exact effectOf_validFlags hne (s.beginEdge rest)
    · exact ⟨id, id⟩
  · rw [illegalWordStep_eq] at hill
    cases hill
    split <;> exact ⟨id, id⟩
  · exact ⟨id, id⟩

/-- Settles O29: every edge lowers the response port, and only an effect that responds raises it again. -/
theorem responsesComeFromThreeCommands : Obligations.ResponsesComeFromThreeCommands := by
  intro tb s t h hrsp
  obtain ⟨rest, _, rfl⟩ | ⟨_, _, hstep⟩ | ⟨hb, cw, rest, i, hi, hd, hexec⟩ | ⟨_, cw, rest, e, _, _, hill⟩
    | ⟨_, rest, rfl⟩ := clockEdge_cases h
  · exact absurd rfl hrsp
  · obtain ⟨_, rfl⟩ | ⟨_, rfl⟩ := engineStep_cases hstep <;> exact absurd rfl hrsp
  · have hresp : responds i = true := Bool.of_not_eq_false fun hno => hrsp (exec_rsp hno hexec)
    have hne : i ≠ .init := by rintro rfl; cases hresp
    obtain ⟨_, _, _, rfl⟩ | ⟨hm, _, rfl⟩ | ⟨_, hrun, rfl⟩ | ⟨_, rfl⟩ := exec_cases hexec
    · exact absurd rfl hrsp
    · have hready : s.mode = .ready := hm
      exact ⟨hb, (effectOf_faultRegs _ hne).1, cw, rest, i, hi, hd, hresp, fun hf => by simp [hready] at hf⟩
    · exact ⟨hb, (effectOf_faultRegs _ hne).1, cw, rest, i, hi, hd, hresp, fun _ => hrun⟩
    · exact absurd rfl hrsp
  · rw [illegalWordStep_eq] at hill
    cases hill
    split at hrsp <;> exact absurd rfl hrsp
  · exact absurd rfl hrsp

/-! The operating mode (R280). -/

theorem State.mode_raise {s : State} (hb : s.busy = false) (c : FaultCode) (cw : CmdWord) :
    (s.raise c cw).mode = .fault := by simp [State.mode_fault_iff, hb]

/-- The operating mode after a command. -/
theorem exec_mode_cases {i : Instr} {s t : State} (h : exec i s = .next t) :
    t.mode = s.mode ∨ (s.mode = .ready ∧ t.mode = .fault) ∨ ((i = .enc ∨ i = .dec) ∧ s.mode = .ready ∧ t.mode = .busy)
      ∨ (i = .init ∧ t.mode = .ready) := by
  obtain ⟨hm, c, _, rfl⟩ | ⟨hm, _, rfl⟩ | ⟨_, hi, rfl⟩ | ⟨_, rfl⟩ := exec_cases h
  · exact .inr (.inl ⟨hm, State.mode_raise ((State.mode_ready_iff s).1 hm).1 c _⟩)
  · obtain hsame | ⟨hstart, hbusy⟩ | hinit := effectOf_mode_cases i s
    · exact .inl hsame
    · exact .inr (.inr (.inl ⟨hstart, hm, hbusy⟩))
    · exact .inr (.inr (.inr hinit))
  · obtain hsame | ⟨rfl | rfl, _⟩ | hinit := effectOf_mode_cases i s
    · exact .inl hsame
    · cases hi
    · cases hi
    · exact .inr (.inr (.inr hinit))
  · exact .inl rfl

/-- The transitions of R280, one by one, with what must have been at the port. -/
theorem clockEdge_mode_cases {tb : Tables} {s t : State} (hs : s.Inv) (h : clockEdge tb s = .next t) :
    t.mode = s.mode ∨ (t.mode = .ready ∧ s.input.head? = some .rst) ∨ (s.mode = .busy ∧ t.mode = .ready ∧ s.rc = 16)
      ∨ (s.mode = .ready ∧ t.mode = .busy ∧ (s.input.head? = some (.cmd 0x4000) ∨ s.input.head? = some (.cmd 0x4100)))
      ∨ (s.mode ≠ .busy ∧ t.mode = .ready ∧ s.input.head? = some (.cmd 0x9000))
      ∨ (s.mode = .ready ∧ t.mode = .fault ∧ ∃ cw, s.input.head? = some (.cmd cw)) := by
  obtain ⟨rest, hi, rfl⟩ | ⟨hb, _, hstep⟩ | ⟨hb, cw, rest, i, hi, hd, hexec⟩
    | ⟨hb, cw, rest, e, hi, _, hill⟩ | ⟨_, rest, rfl⟩ := clockEdge_cases h
  · exact .inr (.inl ⟨rfl, by rw [hi]; rfl⟩)
  · have hm := (State.mode_busy_iff s).2 hb
    obtain ⟨_, rfl⟩ | ⟨hrc, rfl⟩ := engineStep_cases hstep
    · exact .inl rfl
    · exact .inr (.inr (.inl ⟨hm, (State.mode_ready_iff _).2 ⟨rfl, hs.busy_err hb⟩, hrc⟩))
  · rw [hi, ← encode_of_decode hd]
    obtain hsame | ⟨hm, hf⟩ | ⟨rfl | rfl, hm, hbusy⟩ | ⟨rfl, hready⟩ := exec_mode_cases hexec
    · exact .inl hsame
    · exact .inr (.inr (.inr (.inr (.inr ⟨hm, hf, encode i, rfl⟩))))
    · exact .inr (.inr (.inr (.inl ⟨hm, hbusy, .inl rfl⟩)))
    · exact .inr (.inr (.inr (.inl ⟨hm, hbusy, .inr rfl⟩)))
    · exact .inr (.inr (.inr (.inr (.inl ⟨fun hm => by simp [(State.mode_busy_iff s).1 hm] at hb, hready, rfl⟩))))
  · rw [illegalWordStep_eq] at hill
    cases hill
    split
    · next hm =>
      exact .inr (.inr (.inr (.inr (.inr ⟨hm, State.mode_raise (s := s.beginEdge rest) hb _ cw, cw, by rw [hi]; rfl⟩))))
    · exact .inl rfl
  · exact .inl rfl

/-- Settles O25, by the list of transitions. -/
theorem modesChangeAsListed : Obligations.ModesChangeAsListed := by
  intro tb s t hs h
  obtain hsame | ⟨hr, hrst⟩ | ⟨hb, hr, hrc⟩ | ⟨hr, hb, hstart⟩ | ⟨hb, hr, hinit⟩ | ⟨hr, hf, hcmd⟩ :=
    clockEdge_mode_cases hs h
  · simp +contextual [hsame]
  · simp [hr, hrst]
  · simp [hb, hr, hrc]
  · simpa [hr, hb] using hstart
  · simp [hb, hr, hinit]
  · simp [hr, hf, hcmd]

end Sys2Proof.Machine
end

section
/-! PROOFS. Laws of the pure functions (41_key_schedule.md R123, 42_round_function.md R150, 43_block_transform.md R180,
R181): what of the key reaches a subkey, what of its arguments the round function sees, and what that means for a
transform. -/

namespace Sys2Proof.Machine

/-! The subkeys (R122, R123). -/

theorem deriveSubkeys_congr {key key' : Block} (h : ∀ i < 16, subkeyOf key i = subkeyOf key' i) :
    deriveSubkeys key = deriveSubkeys key' :=
  Vector.ext fun i hi => by simpa [deriveSubkeys] using h i hi

/-- Subkey `i` has the key bits `i` to `47 + i`, so none has bit 63. -/
theorem subkeyOf_congr {key key' : Block} {i : Nat} (hi : i < 16) (h : ∀ n < 63, key.getLsbD n = key'.getLsbD n) :
    subkeyOf key i = subkeyOf key' i :=
  BitVec.eq_of_getLsbD_eq fun n hn => by
    rw [getLsbD_subkeyOf key i hn, getLsbD_subkeyOf key' i hn, h (i + n) (by omega)]

theorem getLsbD_topBit {n : Nat} (hn : n < 63) : (0x8000000000000000 : Block).getLsbD n = false := by
  revert n
  decide

theorem deriveSubkeys_topBit (key : Block) : deriveSubkeys (key ^^^ 0x8000000000000000) = deriveSubkeys key :=
  deriveSubkeys_congr fun i hi => subkeyOf_congr hi fun n hn => by
    rw [BitVec.getLsbD_xor, getLsbD_topBit hn, Bool.xor_false]

/-- The overlap of consecutive subkeys (R123 b). -/
theorem subkeyOf_succ (key : Block) (i : Nat) :
    subkeyOf key (i + 1) = key.extractLsb' (48 + i) 1 ++ (subkeyOf key i).extractLsb' 1 47 := by
  refine BitVec.eq_of_getLsbD_eq fun n hn => ?_
  rw [getLsbD_subkeyOf key (i + 1) hn, BitVec.getLsbD_append]
  split
  · next hlow =>
    rw [BitVec.getLsbD_extractLsb', decide_eq_true hlow, Bool.true_and, getLsbD_subkeyOf key i (by omega)]
    congr 1
    omega
  · rw [BitVec.getLsbD_extractLsb', decide_eq_true (by omega), Bool.true_and]
    congr 1
    omega

/-- Settles O33: no subkey has bit 63, each is the one before shifted by a bit, and the three keys are evaluated. -/
theorem topKeyBitReachesNoSubkey : Obligations.TopKeyBitReachesNoSubkey :=
  ⟨deriveSubkeys_topBit, fun key i _ => subkeyOf_succ key i, by decide⟩

/-! The round function (R149, R150). -/

theorem roundFunction_congr (t : Tables) {h h' : Half} {k k' : Subkey} (hmix : expand t h ^^^ k = expand t h' ^^^ k') :
    roundFunction t h k = roundFunction t h' k' := congrArg (fun m => permute t (substitute t m)) hmix

theorem posBit_allOnes {n : Nat} (q : Position n) : posBit (BitVec.allOnes n) q = true := by
  have hq := q.isLt
  rw [posBit, BitVec.getLsbD_allOnes]
  exact decide_eq_true (by omega)

theorem expand_allOnes (t : Tables) : expand t (BitVec.allOnes 32) = BitVec.allOnes 48 :=
  eq_of_posBit_eq fun p => by
    rw [expand_eq_copyPositions, posBit_copyPositions, posBit_allOnes, posBit_allOnes]

theorem expand_xor (t : Tables) (a b : Half) : expand t (a ^^^ b) = expand t a ^^^ expand t b :=
  copyPositions_xor t.etab a b

theorem expand_zero (t : Tables) : expand t 0 = 0 := copyPositions_zero t.etab

/-- Complementing both arguments leaves the mix, and so `F`, as it was (R181 b). -/
theorem roundFunction_not (t : Tables) (h : Half) (k : Subkey) :
    roundFunction t (~~~h) (~~~k) = roundFunction t h k := by
  refine roundFunction_congr t ?_
  have hnot {n : Nat} (v : BitVec n) : ~~~v = v ^^^ BitVec.allOnes n := by simp
  calc expand t (~~~h) ^^^ ~~~k
      = (expand t h ^^^ BitVec.allOnes 48) ^^^ (k ^^^ BitVec.allOnes 48) := by
        rw [hnot h, hnot k, expand_xor, expand_allOnes]
    _ = (expand t h ^^^ k) ^^^ (BitVec.allOnes 48 ^^^ BitVec.allOnes 48) := by ac_rfl
    _ = expand t h ^^^ k := by rw [BitVec.xor_self, BitVec.xor_zero]

/-- Settles O37: `F` is a function of the mix, and `F(0, 0)` and its complement have the mix 0. -/
theorem roundFunctionSeesOnlyTheMix : Obligations.RoundFunctionSeesOnlyTheMix := fun t => by
  refine ⟨fun _ _ _ _ => roundFunction_congr t, (roundFunction_not t 0 0).symm, ?_⟩
  rw [roundFunction, mix, expand_zero]
  rfl

/-! The transform (R180, R181). -/

/-- Settles O43: each direction undoes the other. -/
theorem decryptionInvertsEncryption : Obligations.DecryptionInvertsEncryption :=
  fun tb b sk => ⟨blockTransform_undo tb sk (d := .enc) (e := .dec) nofun b,
    blockTransform_undo tb sk (d := .dec) (e := .enc) nofun b⟩

/-- With equal subkeys the direction mux makes no difference. -/
theorem feistelRounds_of_equal_subkeys (t : Tables) {sk : SubkeySet} (hsk : ∀ i j : Fin 16, sk.get i = sk.get j)
    (d e : Direction) (n : Nat) (lr : Half × Half) : feistelRounds t sk d n lr = feistelRounds t sk e n lr := by
  induction n with
  | zero => rfl
  | succ n ih => rw [feistelRounds, feistelRounds, ih, hsk (roundIndex d n) (roundIndex e n)]

/-- Settles O45, by the rounds. -/
theorem equalSubkeysMakeDirectionsAgree : Obligations.EqualSubkeysMakeDirectionsAgree :=
  fun tb b _ hsk => congrArg exitBlock (feistelRounds_of_equal_subkeys tb hsk .enc .dec 16 (entryHalves b))

/-- Both halves complemented. -/
def notHalves (lr : Half × Half) : Half × Half := (~~~lr.1, ~~~lr.2)

theorem feistelRound_not (t : Tables) (k : Subkey) (lr : Half × Half) :
    feistelRound t (~~~k) (notHalves lr) = notHalves (feistelRound t k lr) := by
  simp [feistelRound, notHalves, roundFunction_not, BitVec.not_xor_left]

theorem subkeyOf_not (key : Block) {i : Nat} (hi : i < 16) : subkeyOf (~~~key) i = ~~~subkeyOf key i :=
  BitVec.eq_of_getLsbD_eq fun n hn => by
    rw [getLsbD_subkeyOf _ i hn, BitVec.getLsbD_not, BitVec.getLsbD_not, getLsbD_subkeyOf key i hn]
    simp [hn, show i + n < 64 by omega]

theorem feistelRounds_not (t : Tables) (key : Block) (d : Direction) (n : Nat) (lr : Half × Half) :
    feistelRounds t (deriveSubkeys (~~~key)) d n (notHalves lr)
      = notHalves (feistelRounds t (deriveSubkeys key) d n lr) := by
  induction n with
  | zero => rfl
  | succ n ih =>
    rw [feistelRounds, feistelRounds, ih, get_deriveSubkeys, get_deriveSubkeys, subkeyOf_not key (Fin.isLt _),
      feistelRound_not]

theorem entryHalves_not (b : Block) : entryHalves (~~~b) = notHalves (entryHalves b) := by
  have hhalf (k : Nat) (hk : k ≤ 32) : (~~~b).extractLsb' k 32 = ~~~(b.extractLsb' k 32) :=
    BitVec.eq_of_getLsbD_eq fun n hn => by simp [hn, show k + n < 64 by omega]
  exact Prod.ext (hhalf 32 (by decide)) (hhalf 0 (by decide))

theorem exitBlock_notHalves (lr : Half × Half) : exitBlock (notHalves lr) = ~~~exitBlock lr := by
  refine BitVec.eq_of_getLsbD_eq fun n hn => ?_
  simp only [exitBlock, finalPermutation, notHalves, BitVec.getLsbD_not, getLsbD_joinHalves, hn]
  split
  · next h => simp [h]
  · simp [show n - 32 < 32 by omega]

/-- Settles O46: the halves of every round are complemented, since `F` sees the same mix. -/
theorem complementedInputsComplementTheResult : Obligations.ComplementedInputsComplementTheResult := by
  intro tb b key d
  rw [blockTransform, entryHalves_not, feistelRounds_not, exitBlock_notHalves]
  rfl

end Sys2Proof.Machine
end

section
/-! PROOFS. The engine (43_block_transform.md R178): the small steps of a running transform against the big step. -/

namespace Sys2Proof.Machine

/-- The state of a running transform of direction `d` that began in `s`, after `n` rounds. -/
def State.afterRounds (t : Tables) (d : Direction) (n : Nat) (s : State) : State :=
  { s with
    dir := d
    l := (feistelRounds t s.sk d n (entryHalves s.blk)).1
    r := (feistelRounds t s.sk d n (entryHalves s.blk)).2
    rc := BitVec.ofNat 5 n
    busy := true }

theorem State.toNat_afterRounds_rc (t : Tables) (d : Direction) {n : Nat} (hn : n ≤ 16) (s : State) :
    (s.afterRounds t d n).rc.toNat = n := Nat.mod_eq_of_lt (by omega)

/-- ROUND takes a running transform from one round to the next. -/
theorem engineStep_afterRounds (t : Tables) (d : Direction) {n : Nat} (hn : n < 16) (s : State) :
    engineStep t (s.afterRounds t d n) = .next (s.afterRounds t d (n + 1)) := by
  have hrc := State.toNat_afterRounds_rc t d hn.le s
  rw [engineStep_of_lt t (by omega), engineRound, hrc]
  simp [State.afterRounds, feistelRounds, BitVec.ofNat_add]

/-- FINAL ends the transform with the big step (R178), for a core that was idle before it. -/
theorem engineStep_afterRounds_last (t : Tables) (d : Direction) {s : State} (hb : s.busy = false) :
    engineStep t (s.afterRounds t d 16) = .next (s.wholeTransform t d) := by
  rw [engineStep_of_eq t rfl]
  simp [engineFinal, State.afterRounds, State.wholeTransform, blockTransform, hb]

theorem engineSteps_afterRounds (t : Tables) (d : Direction) {n : Nat} (hn : n ≤ 16) (s : State) :
    engineSteps t n (s.startTransform d) = .next (s.afterRounds t d n) := by
  induction n with
  | zero => rfl
  | succ n ih => rw [engineSteps_snoc t n (ih (by omega)), engineStep_afterRounds t d hn]

/-- ENC and DEC, each with its direction, start a transform once their preconditions hold (R174, R175). -/
theorem exec_startTransform {i : Instr} {d : Direction} {s : State} (hid : i = .enc ∧ d = .enc ∨ i = .dec ∧ d = .dec)
    (hm : s.mode = .ready) (hk : s.kv = true) (hv : s.bv = true) : exec i s = .next (s.startTransform d) := by
  obtain ⟨rfl, rfl⟩ | ⟨rfl, rfl⟩ := hid
  · exact exec_eq_effectOf hm (faultOf_enc hk hv)
  · exact exec_eq_effectOf hm (faultOf_enc hk hv)

/-- Settles O40: the state before engine step `n` is that of `n` rounds, and after the last of the 17 it is the big
step's. -/
theorem seventeenEngineStepsAreTheTransform : Obligations.SeventeenEngineStepsAreTheTransform := by
  intro tb s i d hid hm hk hv
  have hb := ((State.mode_ready_iff s).1 hm).1
  refine ⟨_, exec_startTransform hid hm hk hv, fun n hn => ?_, ?_⟩
  · exact ⟨_, engineSteps_afterRounds tb d (by omega) s, rfl, State.toNat_afterRounds_rc tb d (by omega) s⟩
  · rw [engineSteps_snoc tb 16 (engineSteps_afterRounds tb d le_rfl s), engineStep_afterRounds_last tb d hb]
    rfl

/-- The engine steps that are left: ROUND until `RC = 16`, then FINAL. -/
theorem engineSteps_to_end (t : Tables) {k : Nat} {s : State} (hk : s.rc.toNat + k = 16) (he : s.err = 0) :
    ∃ u, engineSteps t (k + 1) s = .next u ∧ u.busy = false ∧ u.rc = 16 ∧ u.err = 0 := by
  induction k generalizing s with
  | zero =>
    have hrc : s.rc = 16 := BitVec.eq_of_toNat_eq hk
    exact ⟨engineFinal s, by rw [engineSteps, engineStep_of_eq t hrc]; rfl, rfl, hrc, he⟩
  | succ k ih =>
    obtain ⟨u, hu, hend⟩ := ih (s := engineRound t s) (by rw [engineRound_rc]; bv_omega) he
    exact ⟨u, by rw [engineSteps, engineStep_of_lt t (by omega)]; exact hu, hend⟩

/-- Settles O42: the invariant bounds `RC`, so the rounds that are left and FINAL end the transform. -/
theorem holdAlwaysLifts : Obligations.HoldAlwaysLifts := by
  intro tb s hs hb
  have hle := hs.rc_le
  obtain ⟨u, hu, hbusy, hrc, he⟩ := engineSteps_to_end tb (k := 16 - s.rc.toNat) (by omega) (hs.busy_err hb)
  have hfuel : 17 - s.rc.toNat = 16 - s.rc.toNat + 1 := by omega
  exact ⟨u, hfuel ▸ hu, hbusy, hrc, (State.mode_ready_iff u).2 ⟨hbusy, he⟩⟩

end Sys2Proof.Machine
end

section
/-! PROOFS. Runs (70_reset_and_hazards.md R305) and host calls (R242): runs in which no step shows a fault, their
composition, and the bound on the steps of any run. -/

namespace Sys2Proof.Machine

/-! Runs without a fault. -/

/-- `n` clock edges from `s` to the state last named, giving these responses: before each the run is not over, and after
each `fault = 0`. -/
inductive CleanRun (t : Tables) : Nat → State → List CmdWord → State → Prop where
  | nil (s : State) : CleanRun t 0 s [] s
  | cons {n : Nat} {s u v : State} {rs : List CmdWord} (ho : s.runOver = false) (hu : clockEdge t s = .next u)
      (he : u.err = 0) (rest : CleanRun t n u rs v) : CleanRun t (n + 1) s (u.rsp.toList ++ rs) v

section
variable {t : Tables} {n m : Nat} {s u v : State} {rs rs' : List CmdWord}

theorem CleanRun.trans (h : CleanRun t n s rs u) (h' : CleanRun t m u rs' v) : CleanRun t (n + m) s (rs ++ rs') v := by
  induction h with
  | nil s => simpa using h'
  | cons ho hu he _ ih =>
    rw [Nat.add_right_comm, List.append_assoc]
    exact .cons ho hu he (ih h')

theorem CleanRun.single (ho : s.runOver = false) (hu : clockEdge t s = .next u) (he : u.err = 0) :
    CleanRun t 1 s u.rsp.toList u := by
  simpa using CleanRun.cons ho hu he (.nil u)

theorem CleanRun.inv (h : CleanRun t n s rs u) (hs : s.Inv) : u.Inv := by
  induction h with
  | nil s => exact hs
  | cons _ hu _ _ ih => exact ih (hs.clockEdge hu)

/-- A run without a fault that ends within the fuel is the result of `runToEnd`. -/
theorem CleanRun.runToEnd_eq (h : CleanRun t n s rs u) (ho : u.runOver = true) {fuel : Nat} (hf : n ≤ fuel) :
    runToEnd t fuel s = some ⟨rs, u⟩ := by
  induction h generalizing fuel with
  | nil s => exact runToEnd_of_over t fuel ho
  | cons hs hu _ _ ih =>
    obtain ⟨fuel, rfl⟩ := Nat.exists_eq_add_of_le' (Nat.zero_lt_of_lt hf)
    rw [runToEnd_step t fuel hs hu, ih ho (by omega)]
    rfl

/-- A host call whose run shows no fault is done, with the bytes of the run's responses. -/
theorem CleanRun.callToEnd_done (h : CleanRun t n s rs u) (ho : u.runOver = true) {fuel : Nat} (hf : n ≤ fuel) :
    callToEnd t fuel s = some (.done (rs.map responseByte) u) := by
  induction h generalizing fuel with
  | nil s => exact callToEnd_of_over t fuel ho
  | cons hs hu he _ ih =>
    obtain ⟨fuel, rfl⟩ := Nat.exists_eq_add_of_le' (Nat.zero_lt_of_lt hf)
    rw [callToEnd_step t fuel hs hu he, ih ho (by omega), List.map_append]
    rfl

/-- A host call is given up at the step that first shows a fault. -/
theorem CleanRun.callToEnd_abandoned (h : CleanRun t n s rs u) (ho : u.runOver = false) (hv : clockEdge t u = .next v)
    (he : v.err ≠ 0) {fuel : Nat} (hf : n < fuel) : callToEnd t fuel s = some (.abandoned { v with input := [] }) := by
  obtain ⟨fuel, rfl⟩ := Nat.exists_eq_add_of_le' (Nat.zero_lt_of_lt hf)
  induction h generalizing fuel with
  | nil s => exact callToEnd_fault t fuel ho hv he
  | cons hs hu hu0 _ ih =>
    obtain ⟨fuel, rfl⟩ := Nat.exists_eq_add_of_le' (show 0 < fuel by omega)
    rw [callToEnd_step t (fuel + 1) hs hu hu0, ih ho hv fuel (by omega)]
    rfl

/-! The same run by the host's interface, under the built-in tables. -/

theorem run_succ {M : Host.Core} (k : Nat) {s u : M.State} (h : M.step s = .next u) : M.run (k + 1) s = M.run k u := by
  rw [Host.Core.run, h]

theorem CleanRun.core_run (h : CleanRun Config.tables n s rs u) (k : Nat) :
    Host.Core.run core (n + k) s = Host.Core.run core k u := by
  induction h with
  | nil s => rw [Nat.zero_add]
  | cons _ hu _ _ ih => 
    rw [Nat.add_right_comm]
    exact (run_succ (M := core) _ hu).trans ih

/-- After each step of such a run `ERR = 0`. -/
theorem CleanRun.core_run_err (h : CleanRun Config.tables n s rs u) {m : Nat} (h1 : 1 ≤ m) (hm : m ≤ n) :
    ∃ w, Host.Core.run core m s = .next w ∧ w.err = 0 := by
  induction h generalizing m with
  | nil s => omega
  | @cons n s u _ _ _ hu he _ ih =>
    obtain ⟨m, rfl⟩ := Nat.exists_eq_add_of_le' h1
    rw [run_succ (M := core) m hu]
    obtain rfl | hpos := Nat.eq_zero_or_pos m
    · exact ⟨u, rfl, he⟩
    · exact ih hpos (by omega)

end

/-! The steps that a run can still take (R305). -/

/-- A bound on the steps left: eighteen for each event at the port, and the engine steps of a running transform. -/
def State.stepsLeft (s : State) : Nat := 18 * s.input.length + if s.busy then 17 - s.rc.toNat else 0

theorem State.stepsLeft_of_busy {s : State} (hb : s.busy = true) :
    s.stepsLeft = 18 * s.input.length + (17 - s.rc.toNat) := by rw [State.stepsLeft, if_pos hb]

theorem State.stepsLeft_of_idle {s : State} (hb : s.busy = false) : s.stepsLeft = 18 * s.input.length := by
  rw [State.stepsLeft, if_neg (by simp [hb]), Nat.add_zero]

theorem State.stepsLeft_le (s : State) : s.stepsLeft ≤ 18 * s.input.length + 17 := by
  unfold State.stepsLeft
  split <;> omega

theorem length_inputAfterHold_le (input : List PortEvent) : (inputAfterHold input).length ≤ input.length := by
  unfold inputAfterHold
  split
  · exact Nat.le_succ _
  · exact le_rfl

theorem exec_input {i : Instr} {s t : State} (h : exec i s = .next t) : t.input = s.input := by
  obtain ⟨_, _, _, rfl⟩ | ⟨_, rfl⟩ | ⟨_, rfl⟩ := exec_effect_cases h
  · rfl
  · exact effectOf_input i s
  · rfl

theorem acceptWord_input {cw : CmdWord} {s t : State} (h : acceptWord cw s = .next t) : t.input = s.input := by
  cases hd : decode cw with
  | ok i => exact exec_input (acceptWord_ok hd s ▸ h)
  | error e =>
    rw [acceptWord_illegal hd, illegalWordStep_eq] at h
    cases h
    split <;> rfl

/-- An idle core, and any core at a reset event, is done with the event after the edge. -/
theorem clockEdge_input {t : Tables} {s u : State} {e : PortEvent} {rest : List PortEvent} (hi : s.input = e :: rest)
    (he : s.busy = false ∨ e = .rst) (h : clockEdge t s = .next u) : u.input = rest := by
  cases e with
  | rst =>
    rw [clockEdge_rst t hi] at h
    cases h
    rfl
  | idle =>
    rw [clockEdge_idle t (he.resolve_right nofun) hi] at h
    cases h
    rfl
  | cmd cw =>
    rw [clockEdge_cmd t (he.resolve_right nofun) hi] at h
    exact acceptWord_input h

theorem engineStep_stepsLeft_lt {t : Tables} {s u : State} (hb : s.busy = true) (h : engineStep t s = .next u) :
    u.stepsLeft < s.stepsLeft := by
  rw [State.stepsLeft_of_busy hb]
  obtain ⟨hlt, rfl⟩ | ⟨hrc, rfl⟩ := engineStep_cases h
  · have hrc : (s.rc + 1).toNat = s.rc.toNat + 1 := by bv_omega
    rw [State.stepsLeft_of_busy (s := engineRound t s) hb, engineRound_rc, engineRound_input, hrc]
    omega
  · rw [State.stepsLeft_of_idle (engineFinal_busy s), engineFinal_input, hrc]
    exact Nat.lt_add_of_pos_right (by decide)

/-- The hold keeps no more events than there were. -/
theorem State.stepsLeft_beginEdge_le (s : State) :
    (s.beginEdge (inputAfterHold s.input)).stepsLeft ≤ s.stepsLeft :=
  Nat.add_le_add_right (Nat.mul_le_mul_left 18 (length_inputAfterHold_le s.input)) _

/-- Every step of a run that is not over leaves fewer. -/
theorem clockEdge_stepsLeft_lt {t : Tables} {s u : State} (ho : s.runOver = false) (h : clockEdge t s = .next u) :
    u.stepsLeft < s.stepsLeft := by
  by_cases hengine : s.busy = true ∧ s.input.head? ≠ some .rst
  · obtain ⟨hb, hr⟩ := hengine
    rw [clockEdge_busy t hb hr] at h
    exact (engineStep_stepsLeft_lt (s := s.beginEdge _) hb h).trans_le s.stepsLeft_beginEdge_le
  · cases hi : s.input with
    | nil =>
      have hb : s.busy = false := by simpa [hi] using hengine
      simp [State.runOver, hi, hb] at ho
    | cons e rest =>
      have hevent : s.busy = false ∨ e = .rst := by
        simpa [hi, or_iff_not_imp_left] using hengine
      have hle := u.stepsLeft_le
      rw [clockEdge_input hi hevent h] at hle
      calc u.stepsLeft ≤ 18 * rest.length + 17 := hle
        _ < 18 * s.input.length := by rw [hi, List.length_cons]; omega
        _ ≤ s.stepsLeft := Nat.le_add_right _ _

theorem runOver_of_stepsLeft_eq_zero {s : State} (hs : s.Inv) (h : s.stepsLeft = 0) : s.runOver = true := by
  by_contra ho
  obtain ⟨u, hu⟩ := exists_clockEdge_next Config.tables hs
  have hlt := clockEdge_stepsLeft_lt (Bool.eq_false_of_not_eq_true ho) hu
  omega

/-- A run is over within the steps that its start leaves. -/
theorem exists_runToEnd {t : Tables} {fuel : Nat} {s : State} (hs : s.Inv) (hf : s.stepsLeft ≤ fuel) :
    ∃ res, runToEnd t fuel s = some res ∧ res.final.runOver = true := by
  induction fuel generalizing s with
  | zero =>
    have ho := runOver_of_stepsLeft_eq_zero hs (Nat.le_zero.1 hf)
    exact ⟨_, runToEnd_of_over t 0 ho, ho⟩
  | succ fuel ih =>
    cases ho : s.runOver with
    | true => exact ⟨_, runToEnd_of_over t _ ho, ho⟩
    | false =>
      obtain ⟨u, hu⟩ := exists_clockEdge_next t hs
      have hlt := clockEdge_stepsLeft_lt ho hu
      obtain ⟨res, hres, hover⟩ := ih (hs.clockEdge hu) (by omega)
      exact ⟨res.after u, by rw [runToEnd_step t fuel ho hu, hres]; rfl, hover⟩

/-- Settles O51: an idle core with `n` words presented has at most `18 n` steps left. -/
theorem runIsOverInTime : Obligations.RunIsOverInTime := by
  intro tb s words hs hb hi
  refine exists_runToEnd (s := s.presentWords words) (hs.setPort s.rsp _) ?_
  rw [State.stepsLeft_of_idle (s := s.presentWords words) hb]
  simp [hi]

/-! The two ends of a host call (R242). -/

/-- Within the steps its start leaves, a run either is over without a fault or comes to a first step that shows one. -/
theorem exists_cleanRun (t : Tables) {s : State} (hs : s.Inv) :
    (∃ n rs u, CleanRun t n s rs u ∧ u.runOver = true ∧ n ≤ s.stepsLeft)
      ∨ ∃ n rs u v, CleanRun t n s rs u ∧ u.runOver = false ∧ clockEdge t u = .next v ∧ v.err ≠ 0
          ∧ n < s.stepsLeft := by
  induction hk : s.stepsLeft using Nat.strong_induction_on generalizing s with
  | _ k ih =>
    cases ho : s.runOver with
    | true => exact .inl ⟨0, [], s, .nil s, ho, Nat.zero_le k⟩
    | false =>
      obtain ⟨u, hu⟩ := exists_clockEdge_next t hs
      have hlt : u.stepsLeft < k := hk ▸ clockEdge_stepsLeft_lt ho hu
      by_cases he : u.err = 0
      · obtain ⟨n, rs, v, hrun, hend, hn⟩ | ⟨n, rs, v, w, hrun, hv, hw, hfault, hn⟩ := ih _ hlt (hs.clockEdge hu) rfl
        · exact .inl ⟨n + 1, _, v, .cons ho hu he hrun, hend, by omega⟩
        · exact .inr ⟨n + 1, _, v, w, .cons ho hu he hrun, hv, hw, hfault, by omega⟩
      · exact .inr ⟨0, [], s, u, .nil s, ho, hu, he, Nat.zero_lt_of_lt hlt⟩

/-- In FAULT mode the word of a STAT is accepted and answered, and nothing else changes (R262). -/
theorem clockEdge_statLow (t : Tables) {s : State} {sel : BitVec 1} {rest : List PortEvent} (hm : s.mode = .fault)
    (hi : s.input = .cmd (encode (.statLow sel)) :: rest) :
    clockEdge t s = .next ((s.beginEdge rest).respond (if sel = 0 then s.status else s.ecmd)) := by
  rw [clockEdge_cmd t ((State.mode_fault_iff s).1 hm).1 hi, acceptWord_ok (decode_encode _)]
  exact exec_of_runsInFaultMode (s := s.beginEdge rest) rfl (.inr hm)

/-- A run of STAT words in FAULT mode, each answered with `STATUS` or `ECMD` as they stand. -/
theorem exists_runToEnd_statLow (t : Tables) (sels : List (BitVec 1)) {s : State} (hm : s.mode = .fault)
    (hi : s.input = sels.map fun sel => .cmd (encode (.statLow sel))) :
    ∃ u, runToEnd t sels.length s = some ⟨sels.map fun sel => if sel = 0 then s.status else s.ecmd, u⟩ := by
  induction sels generalizing s with
  | nil => exact ⟨s, runToEnd_of_over t 0 (by simp [State.runOver, hi, ((State.mode_fault_iff s).1 hm).1])⟩
  | cons sel sels ih =>
    obtain ⟨u, hu⟩ := ih (s := (s.beginEdge _).respond _) hm rfl
    refine ⟨u, ?_⟩
    rw [List.length_cons, runToEnd_step t _ (by simp [State.runOver, hi]) (clockEdge_statLow t hm hi), hu]
    rfl

/-- The cause of a fault can be read from an idle core in FAULT mode (R242 d). -/
theorem readCause_of_fault (t : Tables) {s : State} (hm : s.mode = .fault) (hi : s.input = []) :
    readCause t s = some (s.status, s.ecmd) := by
  obtain ⟨u, hu⟩ := exists_runToEnd_statLow t [0, 1] (s := s.present [.statLow 0, .statLow 1]) hm
    (by simp [State.present, hi])
  have hrun : runToEnd t 2 (s.present [.statLow 0, .statLow 1]) = some ⟨[s.status, s.ecmd], u⟩ := hu
  rw [readCause, hrun]

/-- Settles O60: the call is done when its run is over without a fault; otherwise it is abandoned at the first step that
shows one, and a core with a fault on record is idle and lets STAT be read. -/
theorem hostCallStopsAtTheFirstFault : Obligations.HostCallStopsAtTheFirstFault := by
  intro s cmds hs hi
  have hinv : (s.present cmds).Inv := hs.setPort s.rsp _
  have hfuel : (s.present cmds).stepsLeft ≤ 18 * cmds.length + 17 := by
    simpa [State.present, hi] using (s.present cmds).stepsLeft_le
  obtain ⟨n, rs, u, hrun, ho, hn⟩ | ⟨n, rs, v, w, hrun, ho, hw, he, hn⟩ :=
    exists_cleanRun Config.tables hinv
  · refine .inl ⟨_, u, n, hrun.callToEnd_done ho (hn.trans hfuel), hrun.core_run 0, ho, fun m => hrun.core_run_err,
      ⟨rs, u⟩, hrun.runToEnd_eq ho le_rfl, rfl, rfl⟩
  · have hwinv : w.Inv := (hrun.inv hinv).clockEdge hw
    have hbusy : w.busy = false := Bool.eq_false_of_not_eq_true fun hb => he (hwinv.busy_err hb)
    have hm : { w with input := [] }.mode = .fault := (State.mode_fault_iff _).2 ⟨hbusy, he⟩
    exact .inr ⟨_, w, n, hrun.callToEnd_abandoned ho hw he (hn.trans_le hfuel),
      (hrun.core_run 1).trans (run_succ (M := core) 0 hw), he, rfl, fun m => hrun.core_run_err, hm,
      readCause_of_fault _ hm rfl⟩

end Sys2Proof.Machine
end

section
/-! PROOFS. Sequences of commands at the port (45_host_sequences.md R240, R241): what the words of a pseudo-instruction
and of a transform do to a core with a key, and the host calls of `encrypt` and `decrypt` that are made of them. -/

namespace Sys2Proof.Machine

/-! Commands presented one after the other. -/

/-- The commands that neither start a transform nor reset the core. -/
def IsPlain (i : Instr) : Prop := i ≠ .enc ∧ i ≠ .dec ∧ i ≠ .init

/-- A fault on record stays there while no INIT is executed (R262). -/
theorem execAll_fault_err {is : List Instr} (his : ∀ i ∈ is, i ≠ .init) {s u : State} (hm : s.mode = .fault)
    (h : execAll is s = .next u) : u.err ≠ 0 := by
  induction is generalizing s with
  | nil =>
    cases h
    exact ((State.mode_fault_iff _).1 hm).2
  | cons i is ih =>
    obtain ⟨hi, his⟩ := List.forall_mem_cons.1 his
    obtain ⟨v, hv⟩ := exec_next i s
    rw [execAll_cons is hv] at h
    rw [exec_fault_eq i hm] at hv
    cases hrun : runsInFaultMode i with
    | false =>
      rw [if_neg (by simp [hrun])] at hv
      cases hv
      exact ih his hm h
    | true =>
      obtain ⟨r, hr⟩ := effectOf_of_runsInFaultMode hrun hi s
      rw [if_pos hrun, hr] at hv
      cases hv
      exact ih his (s := { s with rsp := r }) hm h

theorem IsPlain.effectOf_mode {i : Instr} (hi : IsPlain i) (s : State) : (effectOf i s).mode = s.mode := by
  obtain ⟨henc, hdec, hinit⟩ := hi
  obtain h | ⟨h | h, _⟩ | ⟨h, _⟩ := effectOf_mode_cases i s
  · exact h
  · exact absurd h henc
  · exact absurd h hdec
  · exact absurd h hinit

/-- The core `s` with this response shown and these words presented, and nothing else at the port. -/
def State.atPort (s : State) (r : Option CmdWord) (words : List CmdWord) : State :=
  { s with rsp := r, input := words.map .cmd }

theorem State.atPort_self {s : State} {words : List CmdWord} (h : s.input = words.map .cmd) :
    s.atPort s.rsp words = s := by
  rw [State.atPort, ← h]

theorem faultOf_setPort (i : Instr) (s : State) (r : Option CmdWord) (input : List PortEvent) :
    faultOf i { s with rsp := r, input := input } = faultOf i s := by
  cases i <;> rfl

/-- A command's effect at a clock edge is its effect on the registers, with the response it gives. -/
theorem effectOf_atPort (i : Instr) (s : State) :
    ∃ r, effectOf i { s with rsp := none } = { effectOf i s with rsp := r } ∧ ∀ r' words words',
      effectOf i ((s.atPort r' words').beginEdge (words.map .cmd)) = (effectOf i s).atPort r words := by
  cases i <;> exact ⟨_, rfl, fun _ _ _ => rfl⟩

/-- In READY mode a presented command that raises no fault has its effect at the next edge. -/
theorem clockEdge_effectOf (t : Tables) {i : Instr} {s : State} {rest : List PortEvent} (hm : s.mode = .ready)
    (hf : faultOf i s = none) (hi : s.input = .cmd (encode i) :: rest) :
    clockEdge t s = .next (effectOf i (s.beginEdge rest)) := by
  rw [clockEdge_cmd t ((State.mode_ready_iff s).1 hm).1 hi, acceptWord_ok (decode_encode i)]
  exact exec_eq_effectOf (s := s.beginEdge rest) hm ((faultOf_setPort i s none rest).trans hf)

/-- The plain commands of a sequence that ends without a fault are accepted one at each edge, and what they do is what
`execAll` and `responsesOf` say. -/
theorem cleanRun_execAll (t : Tables) {is : List Instr} (his : ∀ i ∈ is, IsPlain i) {s u : State} (hm : s.mode = .ready)
    (h : execAll is s = .next u) (he : u.err = 0) (words : List CmdWord) (r : Option CmdWord) :
    ∃ r', CleanRun t is.length (s.atPort r (is.map encode ++ words)) (responsesOf is s) (u.atPort r' words) := by
  induction is generalizing s r with
  | nil =>
    cases h
    exact ⟨r, .nil _⟩
  | cons i is ih =>
    obtain ⟨hi, his⟩ := List.forall_mem_cons.1 his
    obtain ⟨hb, hs0⟩ := (State.mode_ready_iff s).1 hm
    cases hf : faultOf i s with
    | some c =>
      rw [execAll_cons is (exec_eq_raise hm hf)] at h
      exact absurd he (execAll_fault_err (fun j hj => (his j hj).2.2) (State.mode_raise hb c _) h)
    | none =>
      rw [execAll_effectOf is hm hf] at h
      obtain ⟨r1, hr1, hedge⟩ := effectOf_atPort i s
      obtain ⟨r', hrun⟩ := ih his ((hi.effectOf_mode s).trans hm) h r1
      have hu := clockEdge_effectOf t (s := s.atPort r ((i :: is).map encode ++ words)) hm
        ((faultOf_setPort i s r _).trans hf) rfl
      refine ⟨r', ?_⟩
      rw [responsesOf_effectOf is hm hf, hr1]
      exact .cons (u := (effectOf i s).atPort r1 (is.map encode ++ words)) (by simp [State.runOver, State.atPort])
        (hu.trans (congrArg _ (hedge r _ _))) (effectOf_err i hs0) hrun

/-! A transform at the port (R178). -/

theorem inputAfterHold_cmds (words : List CmdWord) : inputAfterHold (words.map .cmd) = words.map .cmd := by
  cases words <;> rfl

/-- While `BUSY = 1` the edge is the engine step, and the words presented are held (R81). -/
theorem clockEdge_atPort_busy (t : Tables) {s : State} (hb : s.busy = true) (words : List CmdWord) :
    clockEdge t (s.atPort none words) = engineStep t (s.atPort none words) := by
  have hr : (s.atPort none words).input.head? ≠ some .rst := by cases words <;> simp [State.atPort]
  have hedge := clockEdge_busy t (s := s.atPort none words) hb hr
  rw [State.atPort, inputAfterHold_cmds] at hedge
  exact hedge

/-- The rounds of a transform, with the next words held. -/
theorem cleanRun_rounds (t : Tables) (d : Direction) {s : State} (he : s.err = 0) (words : List CmdWord) {n : Nat}
    (hn : n ≤ 16) :
    CleanRun t n ((s.startTransform d).atPort none words) [] ((s.afterRounds t d n).atPort none words) := by
  induction n with
  | zero => exact .nil _
  | succ n ih =>
    have hedge := (clockEdge_atPort_busy t (s := s.afterRounds t d n) rfl words).trans
      (engineStep_afterRounds t d hn (s.atPort none words))
    exact (ih (by omega)).trans (.single (by simp [State.runOver, State.atPort, State.afterRounds]) hedge he)

/-- ENC or DEC, the sixteen rounds and FINAL: eighteen steps, with the next words held. -/
theorem cleanRun_transform (t : Tables) {i : Instr} {d : Direction} {s : State}
    (hid : i = .enc ∧ d = .enc ∨ i = .dec ∧ d = .dec) (hm : s.mode = .ready) (hk : s.kv = true) (hv : s.bv = true)
    (words : List CmdWord) (r : Option CmdWord) :
    CleanRun t 18 (s.atPort r (encode i :: words)) [] ((s.wholeTransform t d).atPort none words) := by
  obtain ⟨hb, he⟩ := (State.mode_ready_iff s).1 hm
  have hstart : clockEdge t (s.atPort r (encode i :: words)) = .next ((s.startTransform d).atPort none words) := by
    rw [clockEdge_cmd t (s := s.atPort r (encode i :: words)) hb rfl, acceptWord_ok (decode_encode i)]
    exact exec_startTransform (s := s.atPort none words) hid hm hk hv
  have hfinal := (clockEdge_atPort_busy t (s := s.afterRounds t d 16) rfl words).trans
    (engineStep_afterRounds_last t d (s := s.atPort none words) hb)
  have hrun := ((CleanRun.single (by simp [State.runOver, State.atPort]) hstart he).trans
    (cleanRun_rounds t d he words le_rfl)).trans
    (.single (by simp [State.runOver, State.atPort, State.afterRounds]) hfinal he)
  exact hrun

/-- Settles O41: the eighteen steps, run by the host's interface. -/
theorem transformTakesEighteenSteps : Obligations.TransformTakesEighteenSteps := by
  intro s cw words d hcw hm hk hv hi
  obtain ⟨i, hid, rfl⟩ : ∃ i, (i = .enc ∧ d = .enc ∨ i = .dec ∧ d = .dec) ∧ encode i = cw := by
    obtain ⟨rfl, hd⟩ | ⟨rfl, hd⟩ := hcw
    · exact ⟨.enc, .inl ⟨rfl, hd⟩, rfl⟩
    · exact ⟨.dec, .inr ⟨rfl, hd⟩, rfl⟩
  have hrun := cleanRun_transform Config.tables hid hm hk hv words s.rsp
  rw [State.atPort_self hi] at hrun
  exact hrun.core_run 0

/-! The pseudo-instructions at the port (R96). -/

/-- Pushes and the one command that takes the chunk, none of which responds. -/
theorem cleanRun_pushes (t : Tables) {last : Instr} (hlast : IsPlain last) (hresp : responds last = false)
    (bytes : List Byte) {s u : State} (hm : s.mode = .ready) (h : execAll (bytes.map .dpush ++ [last]) s = .next u)
    (he : u.err = 0) (words : List CmdWord) (r : Option CmdWord) :
    ∃ r', CleanRun t (bytes.length + 1) (s.atPort r ((bytes.map Instr.dpush ++ [last]).map encode ++ words)) []
      (u.atPort r' words) := by
  have hall : ∀ i ∈ bytes.map .dpush ++ [last], IsPlain i ∧ responds i = false := by
    intro i hi
    obtain hi | hi := List.mem_append.1 hi
    · obtain ⟨b, _, rfl⟩ := List.mem_map.1 hi
      exact ⟨⟨nofun, nofun, nofun⟩, rfl⟩
    · cases List.mem_singleton.1 hi
      exact ⟨hlast, hresp⟩
  have hrun := cleanRun_execAll t (fun i hi => (hall i hi).1) hm h he words r
  rwa [responsesOf_eq_nil s fun i hi => (hall i hi).2, List.length_append, List.length_map] at hrun

theorem isPlain_of_mem_read8Cmds : ∀ i ∈ read8Cmds, IsPlain i := by
  intro i hi
  obtain rfl | hi := List.mem_cons.1 hi
  · exact ⟨nofun, nofun, nofun⟩
  · cases List.eq_of_mem_replicate hi
    exact ⟨nofun, nofun, nofun⟩

/-- The core after BLOCK (R106). -/
def State.withChunk (s : State) (v : Block) : State := { s with dsr := v, blk := v, bv := true, dcnt := 0 }

/-- BLOCK at the port. -/
theorem cleanRun_blockCmds (t : Tables) {s : State} (hm : s.mode = .ready) (hc : s.dcnt = 0) (v : Block)
    (words : List CmdWord) (r : Option CmdWord) :
    ∃ r', CleanRun t 9 (s.atPort r ((blockCmds (blockToBytes v)).map encode ++ words)) []
      ((s.withChunk v).atPort r' words) := by
  have h := execAll_blockCmds hm hc (blockByte v 0) (blockByte v 1) (blockByte v 2) (blockByte v 3) (blockByte v 4)
    (blockByte v 5) (blockByte v 6) (blockByte v 7)
  rw [bytesToBlock_blockByte] at h
  exact cleanRun_pushes t (last := .ldblk) ⟨nofun, nofun, nofun⟩ rfl (blockToBytes v) hm h
    ((State.mode_ready_iff s).1 hm).2 words r

/-- The core after KEY (R96, R121). -/
def State.withKey (s : State) (k : Block) : State :=
  { s with dsr := k, key := k, sk := deriveSubkeys k, kv := true, dcnt := 0 }

theorem execAll_keyCmds {s : State} (hm : s.mode = .ready) (hc : s.dcnt = 0) (k : Block) :
    execAll (keyCmds (blockToBytes k)) s = .next (s.withKey k) := by
  have hpush := execAll_dpush (blockToBytes k) hm (by simp [hc])
  rw [blockToBytes, pushBytes_eight, bytesToBlock_blockByte, hc] at hpush
  rw [keyCmds, blockToBytes, execAll_append _ hpush]
  exact execAll_effectOf [] hm (faultOf_ldkey rfl)

/-- KEY at the port. -/
theorem cleanRun_keyCmds (t : Tables) {s : State} (hm : s.mode = .ready) (hc : s.dcnt = 0) (k : Block)
    (words : List CmdWord) (r : Option CmdWord) :
    ∃ r', CleanRun t 9 (s.atPort r ((keyCmds (blockToBytes k)).map encode ++ words)) []
      ((s.withKey k).atPort r' words) :=
  cleanRun_pushes t (last := .ldkey) ⟨nofun, nofun, nofun⟩ rfl (blockToBytes k) hm (execAll_keyCmds hm hc k)
    ((State.mode_ready_iff s).1 hm).2 words r

/-- The core after READ8 (R106). -/
def State.drained (s : State) : State := { s with ssr := 0, scnt := 0 }

/-- READ8 at the port. -/
theorem cleanRun_read8Cmds (t : Tables) {s : State} (hm : s.mode = .ready) (hv : s.bv = true) (words : List CmdWord)
    (r : Option CmdWord) :
    ∃ r', CleanRun t 9 (s.atPort r (read8Cmds.map encode ++ words)) ((blockToBytes s.blk).map (BitVec.setWidth 16))
      (s.drained.atPort r' words) := by
  obtain ⟨r1, h⟩ := execAll_read8Cmds hm hv
  have hrun := cleanRun_execAll t isPlain_of_mem_read8Cmds hm h ((State.mode_ready_iff s).1 hm).2 words r
  rwa [responsesOf_read8Cmds hm hv] at hrun

theorem State.present_eq_atPort {s : State} (hi : s.input = []) (cmds : List Instr) :
    s.present cmds = s.atPort s.rsp (cmds.map encode) := by
  rw [State.present, State.presentWords, hi]
  rfl

theorem State.runOver_atPort_nil {s : State} (hb : s.busy = false) (r : Option CmdWord) :
    (s.atPort r []).runOver = true := by
  simp [State.runOver, State.atPort, hb]

/-- Settles O44: the four pieces of the run, of 9, 18, 18 and 9 steps; DEC undoes ENC on the block. -/
theorem encDecReadsTheBytesBack : Obligations.EncDecReadsTheBytesBack := by
  intro tb s b0 b1 b2 b3 b4 b5 b6 b7 hm hk hc hi
  obtain ⟨hb, he⟩ := (State.mode_ready_iff s).1 hm
  rw [← blockToBytes_bytesToBlock b0 b1 b2 b3 b4 b5 b6 b7]
  generalize bytesToBlock b0 b1 b2 b3 b4 b5 b6 b7 = v
  obtain ⟨r1, hblock⟩ := cleanRun_blockCmds tb hm hc v
    (encode .enc :: encode .dec :: (read8Cmds.map encode ++ [])) s.rsp
  have henc := cleanRun_transform tb (s := s.withChunk v) (.inl ⟨rfl, rfl⟩) hm hk rfl
    (encode .dec :: (read8Cmds.map encode ++ [])) r1
  have hdec := cleanRun_transform tb (s := (s.withChunk v).wholeTransform tb .enc) (.inr ⟨rfl, rfl⟩) hm hk rfl
    (read8Cmds.map encode ++ []) none
  obtain ⟨r2, hread⟩ := cleanRun_read8Cmds tb
    (s := ((s.withChunk v).wholeTransform tb .enc).wholeTransform tb .dec) hm rfl [] none
  have hrun := ((hblock.trans henc).trans hdec).trans hread
  have hback : (((s.withChunk v).wholeTransform tb .enc).wholeTransform tb .dec).blk = v :=
    blockTransform_undo tb s.sk (d := .enc) (e := .dec) nofun v
  have hport : s.present (blockCmds (blockToBytes v) ++ [.enc, .dec] ++ read8Cmds) = s.atPort s.rsp
      ((blockCmds (blockToBytes v)).map encode ++ encode .enc :: encode .dec :: (read8Cmds.map encode ++ [])) := by
    rw [State.present_eq_atPort hi]
    simp
  rw [hback] at hrun
  rw [hport]
  exact ⟨_, hrun.runToEnd_eq (State.runOver_atPort_nil hb r2) le_rfl, rfl, beq_iff_eq.2 he⟩

/-! Chunks and messages (R240, R241). -/

/-- A core that can take a chunk: READY mode, a key with these subkeys, an empty deserializer. -/
structure State.Keyed (sk : SubkeySet) (s : State) : Prop where
  mode : s.mode = .ready
  kv : s.kv = true
  sk_eq : s.sk = sk
  dcnt : s.dcnt = 0

/-- A chunk loaded, transformed and read out takes 36 steps and responds the transformed bytes. -/
theorem cleanRun_chunk (t : Tables) {i : Instr} {d : Direction} (hid : i = .enc ∧ d = .enc ∨ i = .dec ∧ d = .dec)
    {sk : SubkeySet} {s : State} (hs : s.Keyed sk) (v : Block) (words : List CmdWord) (r : Option CmdWord) :
    ∃ (u : State) (r' : Option CmdWord),
      CleanRun t 36 (s.atPort r ((transformCmds i (blockToBytes v)).map encode ++ words))
        ((blockToBytes (blockTransform t v sk d)).map (BitVec.setWidth 16)) (u.atPort r' words) ∧ u.Keyed sk := by
  obtain ⟨hm, hk, rfl, hc⟩ := hs
  obtain ⟨r1, hblock⟩ := cleanRun_blockCmds t hm hc v (encode i :: (read8Cmds.map encode ++ words)) r
  have hstart := cleanRun_transform t (s := s.withChunk v) hid hm hk rfl (read8Cmds.map encode ++ words) r1
  obtain ⟨r2, hread⟩ := cleanRun_read8Cmds t (s := (s.withChunk v).wholeTransform t d) hm rfl words none
  have hrun := (hblock.trans hstart).trans hread
  have hport : (transformCmds i (blockToBytes v)).map encode ++ words
      = (blockCmds (blockToBytes v)).map encode ++ encode i :: (read8Cmds.map encode ++ words) := by
    simp [transformCmds]
  rw [hport]
  exact ⟨_, r2, hrun, hm, hk, rfl, rfl⟩

/-- What messages of one chunk more are made of (R240). -/
theorem messageCmds_blockToBytes_append (i : Instr) (v : Block) (rest : List Byte) :
    messageCmds i (blockToBytes v ++ rest) = transformCmds i (blockToBytes v) ++ messageCmds i rest := by
  simp only [blockToBytes, List.cons_append, List.nil_append, messageCmds]

@[simp] theorem length_blockToBytes (v : Block) : (blockToBytes v).length = 8 := rfl

theorem length_transformCmds (i : Instr) (v : Block) : (transformCmds i (blockToBytes v)).length = 19 := rfl

/-- A message of `m` whole chunks: 19 commands and 36 steps a chunk, and the responses are the mapped bytes. -/
theorem cleanRun_message (t : Tables) {i : Instr} {d : Direction} (hid : i = .enc ∧ d = .enc ∨ i = .dec ∧ d = .dec)
    {sk : SubkeySet} {s : State} (hs : s.Keyed sk) (m : Nat) {data : List Byte} (hd : data.length = 8 * m)
    (r : Option CmdWord) :
    (messageCmds i data).length = 19 * m ∧ ∃ (out : List Byte) (u : State) (r' : Option CmdWord),
      mapChunks (fun b => blockTransform t b sk d) data = .ok out
        ∧ CleanRun t (36 * m) (s.atPort r ((messageCmds i data).map encode)) (out.map (BitVec.setWidth 16))
            (u.atPort r' [])
        ∧ u.Keyed sk := by
  induction m generalizing s data r with
  | zero =>
    obtain rfl := List.length_eq_zero_iff.1 hd
    exact ⟨rfl, [], s, r, rfl, .nil _, hs⟩
  | succ m ih =>
    obtain ⟨v, rest, rfl⟩ := exists_blockToBytes_append (d := data) (by omega)
    rw [List.length_append, length_blockToBytes] at hd
    obtain ⟨w, r1, hchunk, hw⟩ := cleanRun_chunk t hid hs v ((messageCmds i rest).map encode) r
    obtain ⟨hlen, out, u, r', hout, hrest, hu⟩ := ih hw (data := rest) (by omega) r1
    rw [messageCmds_blockToBytes_append]
    refine ⟨by rw [List.length_append, length_transformCmds, hlen]; omega, _, u, r',
      mapChunks_blockToBytes_append _ v hout, ?_, hu⟩
    have hrun := hchunk.trans hrest
    rw [show 36 + 36 * m = 36 * (m + 1) by omega] at hrun
    simpa using hrun

/-! Host calls (R240 to R242). -/

theorem exists_blockToBytes {bytes : List Byte} (h : bytes.length = 8) : ∃ v, bytes = blockToBytes v := by
  obtain ⟨v, rest, rfl⟩ := exists_blockToBytes_append h.ge
  rw [List.length_append, length_blockToBytes] at h
  obtain rfl := List.length_eq_zero_iff.1 (Nat.add_eq_left.1 h)
  exact ⟨v, List.append_nil _⟩

theorem callSubkeys_of_normalizeKey {key : List Byte} {k : Block} (h : normalizeKey key = blockToBytes k) :
    callSubkeys key = .ok (deriveSubkeys k) := by
  have hpack : packChunk (blockToBytes k) = .ok k := congrArg Except.ok (bytesToBlock_blockByte k)
  rw [callSubkeys, h, hpack]

theorem responseByte_setWidth (b : Byte) : responseByte (b.setWidth 16) = b := by
  rw [responseByte, BitVec.setWidth_setWidth (by simp), BitVec.setWidth_eq]

/-- A host call of INIT, the key and a message of whole chunks, on an idle core in READY or in FAULT mode: it is done,
and its bytes are those of the pure function. -/
theorem exists_hostCall_done (t : Tables) {i : Instr} {d : Direction} (hid : i = .enc ∧ d = .enc ∨ i = .dec ∧ d = .dec)
    {s : State} (hb : s.busy = false) (hi : s.input = []) (key : List Byte) {m : Nat} {data : List Byte}
    (hd : data.length = 8 * m) :
    (Instr.init :: keyCmds (normalizeKey key) ++ messageCmds i data).length = 1 + 9 + 19 * m
      ∧ ∃ sk out u, callSubkeys key = .ok sk ∧ mapChunks (fun b => blockTransform t b sk d) data = .ok out
        ∧ hostCall t s (.init :: keyCmds (normalizeKey key) ++ messageCmds i data) = some (.done out u)
        ∧ u.runOver = true ∧ u.clean = true := by
  obtain ⟨k, hk⟩ := exists_blockToBytes (length_normalizeKey key)
  have hsk := callSubkeys_of_normalizeKey hk
  rw [hk]
  have hinit : clockEdge t (s.atPort s.rsp (encode .init :: ((keyCmds (blockToBytes k)).map encode
      ++ (messageCmds i data).map encode))) = .next (s.resetRegs.atPort none _) := clockEdge_init t hb rfl
  obtain ⟨r1, hkey⟩ := cleanRun_keyCmds t (s := s.resetRegs) rfl rfl k ((messageCmds i data).map encode) none
  obtain ⟨hlen, out, u, r2, hout, hmessage, ⟨hm, _, _, _⟩⟩ :=
    cleanRun_message t hid (sk := deriveSubkeys k) (s := s.resetRegs.withKey k) ⟨rfl, rfl, rfl, rfl⟩ m hd r1
  obtain ⟨hub, hue⟩ := (State.mode_ready_iff u).1 hm
  have hcmds : (Instr.init :: keyCmds (blockToBytes k) ++ messageCmds i data).length = 1 + 9 + 19 * m := by
    rw [List.length_append, hlen]
    rfl
  have hrun := ((CleanRun.single (by simp [State.runOver, State.atPort]) hinit rfl).trans hkey).trans hmessage
  refine ⟨hcmds, _, out, u.atPort r2 [], hsk, hout, ?_, State.runOver_atPort_nil hub r2, beq_iff_eq.2 hue⟩
  have hport : (Instr.init :: keyCmds (blockToBytes k) ++ messageCmds i data).map encode
      = encode .init :: ((keyCmds (blockToBytes k)).map encode ++ (messageCmds i data).map encode) := by simp
  have hbytes : (out.map (BitVec.setWidth 16)).map responseByte = out := by
    simp [Function.comp_def, responseByte_setWidth]
  rw [hostCall, State.present_eq_atPort hi, hcmds, hport,
    hrun.callToEnd_done (State.runOver_atPort_nil hub r2) (by omega)]
  exact congrArg (fun bytes => some (CallEnd.done bytes _)) hbytes

/-- Settles O56: the padded message is whole chunks. -/
theorem coreComputesEncrypt : Obligations.CoreComputesEncrypt := by
  intro tb s plaintext key hb hi
  obtain ⟨hlen, sk, out, u, hsk, hout, hcall, hover, hclean⟩ :=
    exists_hostCall_done tb (.inl ⟨rfl, rfl⟩) hb hi key (length_pad plaintext)
  exact ⟨hlen, out, u, by rw [encrypt, hsk]; exact hout, hcall, hover, hclean⟩

/-- Settles O57: the length check on both sides; a ciphertext that passes it is whole chunks, and the host unpads as the
pure function does. -/
theorem coreComputesDecrypt : Obligations.CoreComputesDecrypt := by
  intro tb s ciphertext key
  refine ⟨fun hlen => ⟨if_pos hlen, by rw [hostDecrypt, decryptCmds, if_pos hlen]⟩, fun hlen hb hi => ?_⟩
  obtain ⟨_, sk, out, u, hsk, hout, hcall, hover, hclean⟩ :=
    exists_hostCall_done tb (.inr ⟨rfl, rfl⟩) hb hi key (m := ciphertext.length / 8) (data := ciphertext) (by omega)
  refine ⟨unpad out, u, ?_, ?_, hover, hclean⟩
  · rw [decrypt, if_neg (by omega), hsk]
    simp only [hout]
  · rw [hostDecrypt, decryptCmds, if_neg (by omega)]
    simp only [hcall]
    rfl

end Sys2Proof.Machine
end

section
/-! PROOFS. The assembler (30_encoding.md R95, R96): the lines with operands, in and out of range, and the
pseudo-instructions. -/

namespace Sys2Proof.Machine

/-! Operands in range, and out of range (R95). -/

theorem rdskOf_low (i : BitVec 4) (j : BitVec 2) : rdskOf i.toNat j.toNat = some (.rdskLow i j) := by
  have hi := i.isLt
  have hj := j.isLt
  rw [rdskOf, if_neg (by omega), if_pos (by omega), BitVec.ofNat_toNat, BitVec.ofNat_toNat, BitVec.setWidth_eq,
    BitVec.setWidth_eq]

theorem rdskOf_high (i : BitVec 4) (j : BitVec 1) : rdskOf i.toNat (4 + j.toNat) = some (.rdskHigh i j) := by
  have hi := i.isLt
  have hj := j.isLt
  rw [rdskOf, if_neg (by omega), if_neg (by omega), Nat.add_sub_cancel_left, BitVec.ofNat_toNat, BitVec.ofNat_toNat,
    BitVec.setWidth_eq, BitVec.setWidth_eq]

theorem statOf_low (sel : BitVec 1) : statOf sel.toNat = some (.statLow sel) := by
  have hsel := sel.isLt
  rw [statOf, if_neg (by omega), if_pos (by omega), BitVec.ofNat_toNat, BitVec.setWidth_eq]

theorem words_dpush (b : Byte) : (AsmLine.dpush b.toNat).words = some [encode (.dpush b)] := by
  simp [AsmLine.words, AsmLine.cmds, b.isLt]

theorem words_rdsk {i j : Nat} {cmd : Option Instr} (h : rdskOf i j = cmd) :
    (AsmLine.rdsk i j).words = cmd.map fun c => [encode c] := by
  cases cmd <;> simp [AsmLine.words, AsmLine.cmds, h]

theorem words_stat {sel : Nat} {cmd : Option Instr} (h : statOf sel = cmd) :
    (AsmLine.stat sel).words = cmd.map fun c => [encode c] := by
  cases cmd <;> simp [AsmLine.words, AsmLine.cmds, h]

theorem words_word (w : CmdWord) : (AsmLine.word w.toNat).words = some [w] := by
  simp [AsmLine.words, w.isLt]

/-- Settles O58: each operand form in its range and out of it; the eight lines of text are read one by one. -/
theorem assemblerSpellsTheLegalWords : Obligations.AssemblerSpellsTheLegalWords :=
  ⟨words_dpush, fun i j => words_rdsk (rdskOf_low i j), fun i j => words_rdsk (rdskOf_high i j),
    fun sel => words_stat (statOf_low sel), words_stat (sel := 2) rfl, by decide,
    fun b hb => by simp [AsmLine.words, AsmLine.cmds, hb.not_gt],
    fun i j hij => words_rdsk (if_pos hij), fun sel hsel => words_stat (if_pos hsel), words_word⟩

/-! The pseudo-instructions (R96). -/

/-- Numbers that are bytes are read as those bytes. -/
theorem eightBytes_map_toNat {bytes : List Byte} (h : bytes.length = 8) :
    eightBytes (bytes.map BitVec.toNat) = some bytes := by
  have hrange : ∀ n ∈ bytes.map BitVec.toNat, n < 256 := List.forall_mem_map.2 fun b _ => b.isLt
  rw [eightBytes, if_pos ⟨by rw [List.length_map, h], hrange⟩, List.map_map]
  simp [Function.comp_def]

/-- Settles O59: eight numbers in range are eight bytes, and the commands are those of their pseudo-instruction. -/
theorem pseudoInstructionsExpand : Obligations.PseudoInstructionsExpand := by
  refine ⟨rfl, fun b0 b1 b2 b3 b4 b5 b6 b7 => ?_⟩
  have h := eightBytes_map_toNat (bytes := [b0, b1, b2, b3, b4, b5, b6, b7]) rfl
  exact ⟨congrArg (Option.map blockCmds) h, congrArg (Option.map keyCmds) h,
    congrArg (Option.map (transformCmds .enc)) h, congrArg (Option.map (transformCmds .dec)) h⟩

end Sys2Proof.Machine
end
